-- ==== Sys2Proof/Word.lean ====
section
/-! DEFINITION. The value widths of the block (00_scope R12) and nothing else: every operation on them that a rule
defines stands in Decode.lean or under Machine/. -/

namespace Sys2Proof

/-- An 8-bit value: a channel, a character, a brightness, a SegmentCode (R12). -/
abbrev Byte := BitVec 8

/-- A packed 24-bit RGB colour: red in bits 23:16, green in 15:8, blue in 7:0 (R12, R52). -/
abbrev Color := BitVec 24

/-- A 16-bit hue (R12). -/
abbrev Hue := BitVec 16

/-- A SegmentCode: bits 0 to 6 are the segments, bit 7 the decimal point (R70). -/
abbrev SegCode := BitVec 8

/-- A text: its bytes, first character first (R12, R72). -/
abbrev Text := List Byte

/-- A command frame or a response: bytes, first byte first (R72, R78). -/
abbrev ByteString := List Byte

/-- The index of an LED within its unit, 0..14 (R6). -/
abbrev Led := Fin 15

/-- An emitted frame: one colour per LED, entry 0 first (R33, R53). -/
abbrev LedFrame := List Color

end Sys2Proof
end

