-- ==== Sys2Proof/Config.lean ====
section
/-! DEFINITION. What an implementation fixes: the number of units and the five constant tables that R11 makes
arguments of the model, with the constraints the spec puts on them; the reference configuration RC0 of
92_eei_decisions; and the uninterpreted constants (the installed configuration, the free byte of R108). -/

namespace Sys2Proof

/-- The alphabet indices (R100) of b, d, n, o and r, whose two shapes differ (R103). -/
def variantGlyphs : List (Fin 32) := [11, 13, 21, 22, 25]

/-- The alphabet index of the space (R100). -/
def spaceGlyph : Fin 32 := 30

/-- The elaboration parameter N and the constant tables (R5, R11, R29), with the spec's constraints as fields, so
that no ill-formed configuration exists. A glyph table is indexed by the alphabet index of R100. -/
structure Config where
  /-- `N`, the number of display units (R5). -/
  units : Nat
  /-- `GLYPH_DEFAULT` (R11, R30). -/
  glyphDefault : Vector SegCode 32
  /-- `GLYPH_UPPER` (R11, R30). -/
  glyphUpper : Vector SegCode 32
  /-- `SEG_MAP`: entry k is the set of LEDs of segment k, entry 7 the decimal point's (R31); a list stands for the set. -/
  segMap : Vector (List Led) 8
  /-- `PIXEL_XY`: x in 0..5 and y in 0..10 of each LED of a unit (R32). -/
  pixelXY : Vector (Fin 6 × Fin 11) 15
  /-- `GAMMA_LUT` (R11, R130); nothing constrains it. -/
  gammaLut : Vector Byte 256
  units_pos : 1 ≤ units
  units_le : units ≤ 255
  glyphDefault_bit7 : ∀ i, (glyphDefault.get i).getLsbD 7 = false
  glyphUpper_bit7 : ∀ i, (glyphUpper.get i).getLsbD 7 = false
  glyph_same : ∀ i, i ∉ variantGlyphs → glyphUpper.get i = glyphDefault.get i
  glyph_differ : ∀ i ∈ variantGlyphs, glyphUpper.get i ≠ glyphDefault.get i
  space_blank : glyphDefault.get spaceGlyph = 0 ∧ glyphUpper.get spaceGlyph = 0
  seg_two : ∀ k : Fin 8, k ≠ 7 → (segMap.get k).length = 2
  seg_dp : (segMap.get 7).length = 1
  seg_nodup : ∀ k, (segMap.get k).Nodup
  seg_disjoint : ∀ k k', k ≠ k' → ∀ p ∈ segMap.get k, p ∉ segMap.get k'
  seg_cover : ∀ p : Led, ∃ k, p ∈ segMap.get k
deriving DecidableEq, Repr

/-- RC0's glyph tables (92_eei_decisions, D11), in alphabet order. -/
def rc0GlyphDefault : Vector SegCode 32 :=
  #v[0x3F, 0x06, 0x5B, 0x4F, 0x66, 0x6D, 0x7D, 0x07, 0x7F, 0x6F,
     0x77, 0x7C, 0x39, 0x5E, 0x79, 0x71, 0x3D, 0x74, 0x30, 0x1E,
     0x38, 0x54, 0x5C, 0x73, 0x67, 0x50, 0x6D, 0x3E, 0x76, 0x6E, 0x00, 0x40]

def rc0GlyphUpper : Vector SegCode 32 :=
  #v[0x3F, 0x06, 0x5B, 0x4F, 0x66, 0x6D, 0x7D, 0x07, 0x7F, 0x6F,
     0x77, 0x7F, 0x39, 0x3F, 0x79, 0x71, 0x3D, 0x74, 0x30, 0x1E,
     0x38, 0x37, 0x3F, 0x73, 0x67, 0x77, 0x6D, 0x3E, 0x76, 0x6E, 0x00, 0x40]

/-- RC0's segment-to-pixel map (92_eei_decisions, D12). -/
def rc0SegMap : Vector (List Led) 8 :=
  #v[[0, 1], [2, 3], [4, 5], [6, 7], [8, 9], [10, 11], [12, 13], [14]]

/-- RC0's pixel position map (92_eei_decisions, D13). -/
def rc0PixelXY : Vector (Fin 6 × Fin 11) 15 :=
  #v[(1, 0), (3, 0), (4, 2), (4, 4), (4, 6), (4, 8), (3, 10), (1, 10),
     (0, 8), (0, 6), (0, 4), (0, 2), (1, 5), (3, 5), (5, 10)]

/-- The reference configuration RC0 for a chain of `units` units. RC0 names no gamma table, so one is an argument.
It shows that the constraints can be met and serves the spec's test vectors; nothing else rests on it. -/
def Config.rc0 (units : Nat) (gammaLut : Vector Byte 256) (h : 1 ≤ units ∧ units ≤ 255) : Config where
  units := units
  glyphDefault := rc0GlyphDefault
  glyphUpper := rc0GlyphUpper
  segMap := rc0SegMap
  pixelXY := rc0PixelXY
  gammaLut := gammaLut
  units_pos := h.1
  units_le := h.2
  glyphDefault_bit7 := by decide
  glyphUpper_bit7 := by decide
  glyph_same := by decide
  glyph_differ := by decide
  space_blank := by decide
  seg_two := by decide
  seg_dp := by decide
  seg_nodup := by decide
  seg_disjoint := by decide
  seg_cover := by decide

/-- The configuration of the installed block: uninterpreted, so nothing is known of it but the constraints above
(R11, notes/assumptions/1.md). The argument only says that the type is inhabited. -/
opaque Config.board [Inhabited Config] : Config

/-- The installed configuration, what `State.reset` is created with. -/
def Config.installed : Config :=
  @Config.board ⟨Config.rc0 1 (Vector.replicate 256 0) ⟨Nat.le_refl 1, by decide⟩⟩

/-- `GLYPH_AT_OOR` (R108): the byte of the n-th draw, for an index that is out of range. A FREE VALUE: no body, so
nothing constrains it (notes/assumptions/2.md). -/
opaque Config.glyphAtOor : Nat → Byte → Byte

end Sys2Proof
end

