-- ==== Sys2Proof/Syntax.lean ====
section
/-! DEFINITION. The abstract syntax: one constructor per row of spec/opcode_table.json, with the operands of R73 in
frame order, and the reasons for which the command port refuses a command (R243). -/

namespace Sys2Proof

/-- The 21 commands of R73. The first eleven are the operations, the last ten the diagnostic commands. -/
inductive Instr where
  /-- BEGIN, opcode 0x01 (R220). -/
  | begin (brightness : Byte)
  /-- SET_BRIGHTNESS, opcode 0x02 (R222). -/
  | setBrightness (brightness : Byte)
  /-- SET_FORCE_UPPERCASE, opcode 0x03 (R224). -/
  | setForceUppercase (upper : Bool)
  /-- IS_READY, opcode 0x04 (R226). -/
  | isReady
  /-- ALPHABET_SIZE, opcode 0x05 (R106). -/
  | alphabetSize
  /-- GLYPH_AT, opcode 0x06 (R107). -/
  | glyphAt (index : Byte)
  /-- RENDER_SOLID, opcode 0x10 (R186). -/
  | renderSolid (text : Text) (color : Color)
  /-- RENDER_VGRAD, opcode 0x11 (R188). -/
  | renderVGrad (text : Text) (colorA colorB : Color)
  /-- RENDER_HGRAD, opcode 0x12 (R190). -/
  | renderHGrad (text : Text) (colorA colorB : Color)
  /-- RENDER_CYCLE, opcode 0x13 (R192). -/
  | renderCycle (text : Text) (offset : Byte)
  /-- RENDER_CLOCK, opcode 0x14 (R196). -/
  | renderClock (hours minutes seconds : Byte) (colorH colorM : Color)
  /-- LOOKUP, opcode 0x20 (R104). -/
  | lookup (ch : Byte) (upper : Bool)
  /-- PACK, opcode 0x21 (R120). -/
  | pack (r g b : Byte)
  /-- UNPACK_RED, opcode 0x22 (R121). -/
  | unpackRed (color : Color)
  /-- UNPACK_GREEN, opcode 0x23 (R122). -/
  | unpackGreen (color : Color)
  /-- UNPACK_BLUE, opcode 0x24 (R123). -/
  | unpackBlue (color : Color)
  /-- HSV_TO_RGB, opcode 0x25 (R128). -/
  | hsvToRgb (hue : Hue) (sat val : Byte)
  /-- GAMMA, opcode 0x26 (R130). -/
  | gamma (x : Byte)
  /-- WHEEL, opcode 0x27 (R131). -/
  | wheel (pos : Byte)
  /-- SCALE, opcode 0x28 (R136). -/
  | scale (c brightness : Byte)
  /-- RESOLVE, opcode 0x29 (R164). -/
  | resolve (text : Text)
deriving DecidableEq, Repr

/-- The reasons for which the command port turns a command away with no effect on the block (R243). The fourth
reason of R243, Reentrant, is no property of a frame: it is `Machine.Refusal.reentrant`. -/
inductive PortRefusal where
  /-- The opcode byte is not in R73 (R74). -/
  | illegalOpcode
  /-- The frame's length is wrong, or a BOOL byte is neither 0x00 nor 0x01 (R75). -/
  | malformedFrame
  /-- RENDER_CLOCK with hours above 99 or minutes above 99 (R194). -/
  | clockFieldRange
deriving DecidableEq, Repr

end Sys2Proof
end

