-- ==== Sys2Proof/WellFormed.lean ====
section
/-! DEFINITION. Which terms of the syntax are commands. A `U8`, `U16`, `COLOR` or `BOOL` operand has its width in its
type; the one check left is that a `TEXT` operand holds 0 to 255 bytes (R12, R72). -/

namespace Sys2Proof

/-- A text operand holds at most 255 bytes (R12): its length is sent in one byte (R72). -/
def textFits (text : Text) : Bool := decide (text.length ≤ 255)

/-- The command can be sent as a frame. The clock's range limit is the command's own business (R75). -/
def wellFormed : Instr → Bool
  | .begin _ => true
  | .setBrightness _ => true
  | .setForceUppercase _ => true
  | .isReady => true
  | .alphabetSize => true
  | .glyphAt _ => true
  | .renderSolid text _ => textFits text
  | .renderVGrad text _ _ => textFits text
  | .renderHGrad text _ _ => textFits text
  | .renderCycle text _ => textFits text
  | .renderClock _ _ _ _ _ => true
  | .lookup _ _ => true
  | .pack _ _ _ => true
  | .unpackRed _ => true
  | .unpackGreen _ => true
  | .unpackBlue _ => true
  | .hsvToRgb _ _ _ => true
  | .gamma _ => true
  | .wheel _ => true
  | .scale _ _ => true
  | .resolve text => textFits text

end Sys2Proof
end

