-- ==== Sys2Proof/Decode.lean ====
section
/-! DEFINITION. The command frame (30_encoding): a decoder that is total on any bytes and rejects by name, the encoder
after it, the length scheme of R76, and the layout of an opcode-table word. -/

namespace Sys2Proof

/-! ### Assembling a value from its bytes (R72): most significant byte first (R53) -/

def hueOfBytes (b0 b1 : Byte) : Hue :=
  (b0.zeroExtend 16 <<< 8) ||| b1.zeroExtend 16

def colorOfBytes (b0 b1 b2 : Byte) : Color :=
  (b0.zeroExtend 24 <<< 16) ||| (b1.zeroExtend 24 <<< 8) ||| b2.zeroExtend 24

/-! ### Reading one operand from the front of the operand bytes: the value and what is left (R72) -/

def takeU8 : ByteString → Option (Byte × ByteString)
  | b :: rest => some (b, rest)
  | [] => none

/-- A BOOL byte other than 0x00 and 0x01 makes the frame malformed (R72, R75). -/
def takeBool : ByteString → Option (Bool × ByteString)
  | b :: rest => if b = 0x00 then some (false, rest) else if b = 0x01 then some (true, rest) else none
  | [] => none

def takeU16 : ByteString → Option (Hue × ByteString)
  | b0 :: b1 :: rest => some (hueOfBytes b0 b1, rest)
  | _ => none

def takeColor : ByteString → Option (Color × ByteString)
  | b0 :: b1 :: b2 :: rest => some (colorOfBytes b0 b1 b2, rest)
  | _ => none

/-- The length byte L, then L bytes; 0x00 is an ordinary character (R72). -/
def takeText : ByteString → Option (Text × ByteString)
  | b0 :: rest => if b0.toNat ≤ rest.length then some (rest.take b0.toNat, rest.drop b0.toNat) else none
  | [] => none

/-- A frame longer than its layout is malformed (R75). -/
def endOfFrame (i : Instr) : ByteString → Option Instr
  | [] => some i
  | _ :: _ => none

/-! ### The operand layouts of R73 -/

def readU8 (mk : Byte → Instr) (bs : ByteString) : Option Instr :=
  (takeU8 bs).bind fun (x, bs) => endOfFrame (mk x) bs

def readU8U8 (mk : Byte → Byte → Instr) (bs : ByteString) : Option Instr :=
  (takeU8 bs).bind fun (x, bs) => readU8 (mk x) bs

def readU8U8U8 (mk : Byte → Byte → Byte → Instr) (bs : ByteString) : Option Instr :=
  (takeU8 bs).bind fun (x, bs) => readU8U8 (mk x) bs

def readBool (mk : Bool → Instr) (bs : ByteString) : Option Instr :=
  (takeBool bs).bind fun (x, bs) => endOfFrame (mk x) bs

def readU8Bool (mk : Byte → Bool → Instr) (bs : ByteString) : Option Instr :=
  (takeU8 bs).bind fun (x, bs) => readBool (mk x) bs

def readU16U8U8 (mk : Hue → Byte → Byte → Instr) (bs : ByteString) : Option Instr :=
  (takeU16 bs).bind fun (x, bs) => readU8U8 (mk x) bs

def readColor (mk : Color → Instr) (bs : ByteString) : Option Instr :=
  (takeColor bs).bind fun (x, bs) => endOfFrame (mk x) bs

def readColorColor (mk : Color → Color → Instr) (bs : ByteString) : Option Instr :=
  (takeColor bs).bind fun (x, bs) => readColor (mk x) bs

def readText (mk : Text → Instr) (bs : ByteString) : Option Instr :=
  (takeText bs).bind fun (x, bs) => endOfFrame (mk x) bs

def readTextColor (mk : Text → Color → Instr) (bs : ByteString) : Option Instr :=
  (takeText bs).bind fun (x, bs) => readColor (mk x) bs

def readTextColorColor (mk : Text → Color → Color → Instr) (bs : ByteString) : Option Instr :=
  (takeText bs).bind fun (x, bs) => readColorColor (mk x) bs

def readTextU8 (mk : Text → Byte → Instr) (bs : ByteString) : Option Instr :=
  (takeText bs).bind fun (x, bs) => readU8 (mk x) bs

def readClock (mk : Byte → Byte → Byte → Color → Color → Instr) (bs : ByteString) : Option Instr :=
  (takeU8 bs).bind fun (h, bs) => (takeU8 bs).bind fun (m, bs) => (takeU8 bs).bind fun (s, bs) =>
    readColorColor (mk h m s) bs

/-- The opcode map of R73: what reads the operands of an opcode, none for an illegal opcode (R74). -/
def operandReader (op : Byte) : Option (ByteString → Option Instr) :=
  match op with
  | 0x01 => some (readU8 .begin)
  | 0x02 => some (readU8 .setBrightness)
  | 0x03 => some (readBool .setForceUppercase)
  | 0x04 => some (endOfFrame .isReady)
  | 0x05 => some (endOfFrame .alphabetSize)
  | 0x06 => some (readU8 .glyphAt)
  | 0x10 => some (readTextColor .renderSolid)
  | 0x11 => some (readTextColorColor .renderVGrad)
  | 0x12 => some (readTextColorColor .renderHGrad)
  | 0x13 => some (readTextU8 .renderCycle)
  | 0x14 => some (readClock .renderClock)
  | 0x20 => some (readU8Bool .lookup)
  | 0x21 => some (readU8U8U8 .pack)
  | 0x22 => some (readColor .unpackRed)
  | 0x23 => some (readColor .unpackGreen)
  | 0x24 => some (readColor .unpackBlue)
  | 0x25 => some (readU16U8U8 .hsvToRgb)
  | 0x26 => some (readU8 .gamma)
  | 0x27 => some (readU8 .wheel)
  | 0x28 => some (readU8U8 .scale)
  | 0x29 => some (readText .resolve)
  | _ => none

/-- The command a frame stands for, or the reason it is refused. The opcode is checked before the length and the
operands (R244). An empty frame has no opcode byte and is malformed (notes/assumptions/8.md). -/
def decode : ByteString → Except PortRefusal Instr
  | [] => .error .malformedFrame
  | op :: operands =>
    match operandReader op with
    | none => .error .illegalOpcode
    | some read =>
      match read operands with
      | none => .error .malformedFrame
      | some i => .ok i

/-! ### The encoder, from the same tables (R72, R73) -/

def encodeBool (b : Bool) : ByteString := [if b then 0x01 else 0x00]

def encodeU16 (h : Hue) : ByteString := [(h >>> 8).setWidth 8, h.setWidth 8]

def encodeColor (c : Color) : ByteString := [(c >>> 16).setWidth 8, (c >>> 8).setWidth 8, c.setWidth 8]

def encodeText (t : Text) : ByteString := BitVec.ofNat 8 t.length :: t

def opcode : Instr → Byte
  | .begin _ => 0x01
  | .setBrightness _ => 0x02
  | .setForceUppercase _ => 0x03
  | .isReady => 0x04
  | .alphabetSize => 0x05
  | .glyphAt _ => 0x06
  | .renderSolid _ _ => 0x10
  | .renderVGrad _ _ _ => 0x11
  | .renderHGrad _ _ _ => 0x12
  | .renderCycle _ _ => 0x13
  | .renderClock _ _ _ _ _ => 0x14
  | .lookup _ _ => 0x20
  | .pack _ _ _ => 0x21
  | .unpackRed _ => 0x22
  | .unpackGreen _ => 0x23
  | .unpackBlue _ => 0x24
  | .hsvToRgb _ _ _ => 0x25
  | .gamma _ => 0x26
  | .wheel _ => 0x27
  | .scale _ _ => 0x28
  | .resolve _ => 0x29

def operandBytes : Instr → ByteString
  | .begin b => [b]
  | .setBrightness b => [b]
  | .setForceUppercase u => encodeBool u
  | .isReady => []
  | .alphabetSize => []
  | .glyphAt i => [i]
  | .renderSolid t c => encodeText t ++ encodeColor c
  | .renderVGrad t a b => encodeText t ++ (encodeColor a ++ encodeColor b)
  | .renderHGrad t a b => encodeText t ++ (encodeColor a ++ encodeColor b)
  | .renderCycle t o => encodeText t ++ [o]
  | .renderClock h m s ch cm => h :: m :: s :: (encodeColor ch ++ encodeColor cm)
  | .lookup ch u => ch :: encodeBool u
  | .pack r g b => [r, g, b]
  | .unpackRed c => encodeColor c
  | .unpackGreen c => encodeColor c
  | .unpackBlue c => encodeColor c
  | .hsvToRgb h s v => encodeU16 h ++ [s, v]
  | .gamma x => [x]
  | .wheel p => [p]
  | .scale c b => [c, b]
  | .resolve t => encodeText t

/-- The frame of a well-formed command. -/
def encode (i : Instr) : ByteString := opcode i :: operandBytes i

/-! ### The length scheme (R73, column "Frame bytes"; R76) -/

/-- The frame's length in bytes for an empty text, and whether the layout has a TEXT operand. -/
def frameLayout (op : Byte) : Option (Nat × Bool) :=
  match op with
  | 0x01 => some (2, false)
  | 0x02 => some (2, false)
  | 0x03 => some (2, false)
  | 0x04 => some (1, false)
  | 0x05 => some (1, false)
  | 0x06 => some (2, false)
  | 0x10 => some (5, true)
  | 0x11 => some (8, true)
  | 0x12 => some (8, true)
  | 0x13 => some (3, true)
  | 0x14 => some (10, false)
  | 0x20 => some (3, false)
  | 0x21 => some (4, false)
  | 0x22 => some (4, false)
  | 0x23 => some (4, false)
  | 0x24 => some (4, false)
  | 0x25 => some (5, false)
  | 0x26 => some (2, false)
  | 0x27 => some (2, false)
  | 0x28 => some (3, false)
  | 0x29 => some (2, true)
  | _ => none

/-- The length that a frame's opcode byte and, for a TEXT operand, its length byte ask for (R76); none for an illegal
opcode. A frame that ends before its length byte counts as one with an empty text: it is too short either way. -/
def frameLength : ByteString → Option Nat
  | [] => none
  | op :: operands => (frameLayout op).map fun (n, hasText) =>
      if hasText then n + (operands.headD 0).toNat else n

/-! ### The words of spec/opcode_table.json -/

/-- The first `n` bytes of `w`, byte 0 the least significant. -/
def bytesOfWord : Nat → Nat → ByteString
  | 0, _ => []
  | n + 1, w => BitVec.ofNat 8 w :: bytesOfWord n (w / 256)

/-- The frame of a table word: its bits laid out in bytes, and operand bytes that the table gives no bits as zeros,
up to the length its opcode asks for (notes/assumptions/10.md). -/
def tableFrame (nbits w : Nat) : ByteString :=
  let bytes := bytesOfWord ((nbits + 7) / 8) w
  bytes ++ List.replicate ((frameLength bytes).getD 0 - bytes.length) 0

/-- The instruction the decoder reads from a table word. -/
def decodeTableWord (nbits w : Nat) : Option Instr :=
  match decode (tableFrame nbits w) with
  | .ok i => some i
  | .error _ => none

end Sys2Proof
end

