-- ==== Sys2Proof/Machine/State.lean ====
section
/-! DEFINITION. The state of the block (10_state), the reasons a step can stop, and the state after reset (R260). -/

namespace Sys2Proof.Machine

/-- Why the machine would stop with a fault. The block itself raises none (R240). -/
inductive Fault where
  /-- Raised by the framebuffer's read and write on an index outside 0 .. 15N-1, which R50 says is never formed. Safe:
  it stands where the spec gives no entry, and no step reaches it. -/
  | framebufferIndex
deriving DecidableEq, Repr

/-- Why a step gives no meaning. -/
inductive Refusal where
  /-- Raised by an arm of `exec` for an instruction that has no meaning yet; no arm does. Safe. -/
  | notModelled (mnemonic : String)
  /-- Raised by `step` on a command the host issues before the previous one is complete (R243, R263): the source calls
  the behaviour undefined and the spec does not describe it. Safe: nothing can be proved of such a run. -/
  | reentrant
deriving DecidableEq, Repr

/-- The framebuffer, the block's only memory (R50): pairs of an entry index and its colour, in the canonical form
`Memory.wf`. An index that is not listed reads as `Memory.blank`. -/
abbrev Memory := List (Nat × Color)

/-- The one-entry glyph cache `CACHE` (R27). -/
structure Cache where
  valid : Bool
  text : Text
  upper : Bool
  codes : List SegCode
deriving DecidableEq, Repr

/-- A command as the host issues it: its frame, and whether the host issues it before the previous command is complete,
which R263 forbids. -/
structure Issued where
  frame : ByteString
  overlapping : Bool
deriving DecidableEq, Repr

/-- The state: the registers, framebuffer and cache of 10_state, the two output logs (R33), the run's refusal mark
(R243), the configuration of this block, and the model's own two fields. -/
structure State where
  /-- N and the constant tables: fixed for the lifetime of the block (R5, R29), never written. -/
  cfg : Config
  /-- `READY` (R22). -/
  ready : Bool
  /-- `BRIGHTNESS` (R23). -/
  brightness : Byte
  /-- `FORCE_UPPER` (R24). -/
  forceUpper : Bool
  /-- `FB` (R26). -/
  fb : Memory
  /-- `CACHE` (R27). -/
  cache : Cache
  /-- `EMITTED`, oldest frame first (R33). -/
  emitted : List LedFrame
  /-- `RESPONSES`, oldest first (R33). -/
  responses : List ByteString
  /-- The refusal mark: the reasons recorded so far, oldest first; empty means no mark (R243, R244). -/
  refusals : List PortRefusal
  /-- The model's own: how many draws of `GLYPH_AT_OOR` have been made (notes/assumptions/2.md). -/
  draws : Nat
  /-- The model's own: the commands the host has still to issue, next first (notes/assumptions/4.md). -/
  pending : List Issued
deriving DecidableEq, Repr

/-- `create` (R260): the block of a configuration right after reset. CACHE's text, upper and codes are unspecified and
never read while valid is 0; the values here are notes/assumptions/6.md's. -/
def State.create (cfg : Config) : State where
  cfg := cfg
  ready := false
  brightness := 0
  forceUpper := false
  fb := []
  cache := { valid := false, text := [], upper := false, codes := [] }
  emitted := []
  responses := []
  refusals := []
  draws := 0
  pending := []

/-- The machine right after reset: the installed block, created. -/
def State.reset : State := State.create Config.installed

end Sys2Proof.Machine
end

