-- ==== Sys2Proof/Machine/Ops.lean ====
section
/-! DEFINITION. The named operations the commands share: the framebuffer's (20_memory), the two output ports', and the
refusal at the command port, which is all this block has in the place of an exception (R240, R243, R246). -/

namespace Sys2Proof.Machine

/-- `LEDS_PER_UNIT` (R6). -/
def ledsPerUnit : Nat := 15

/-- `COLS_PER_UNIT` (R7). -/
def colsPerUnit : Nat := 6

/-- `Y_DEN` (R8). -/
def yDen : Nat := 10

/-- `CYCLE_STEP` (R9). -/
def cycleStep : Nat := 9

/-- Black (R52). -/
def black : Color := 0x000000

/-- The number of framebuffer entries, 15N (R6, R26). -/
def ledCount (cfg : Config) : Nat := ledsPerUnit * cfg.units

/-- The entry of LED `p` of unit `u` (R51). -/
def ledIndex (u : Nat) (p : Led) : Nat := ledsPerUnit * u + p.val

/-! ### The framebuffer -/

/-- What an entry that nothing has written reads as: the reset contents (R260). -/
def Memory.blank : Color := 0x000000

/-- The canonical form: indices strictly rising and below `size`, and no entry that reads as an unlisted one. -/
abbrev Memory.wf (size : Nat) (m : Memory) : Prop :=
  m.Pairwise (fun a b => a.1 < b.1) ∧ ∀ e ∈ m, e.1 < size ∧ e.2 ≠ Memory.blank

/-- The entry at index `i`. -/
def Memory.get : Memory → Nat → Color
  | [], _ => Memory.blank
  | (j, w) :: rest, i => if i = j then w else Memory.get rest i

/-- Put an entry before the first one with a greater index. -/
def Memory.insert (i : Nat) (v : Color) : Memory → Memory
  | [] => [(i, v)]
  | (j, w) :: rest => if i < j then (i, v) :: (j, w) :: rest else (j, w) :: Memory.insert i v rest

/-- Replace the entry at index `i`; the colour an unlisted index reads as is not listed. -/
def Memory.set (i : Nat) (v : Color) (m : Memory) : Memory :=
  let others := m.filter fun e => e.1 ≠ i
  if v = Memory.blank then others else Memory.insert i v others

/-- `MemRead(i, 1)` (R16, R50). -/
def memRead (cfg : Config) (m : Memory) (i : Nat) : Except Fault Color :=
  if i < ledCount cfg then .ok (m.get i) else .error .framebufferIndex

/-- `MemWrite(i, 1, v)` (R16, R50). -/
def memWrite (cfg : Config) (m : Memory) (i : Nat) (v : Color) : Except Fault Memory :=
  if i < ledCount cfg then .ok (m.set i v) else .error .framebufferIndex

/-- `MemWrite` over a list of indices and colours, in order; a fault stops it. -/
def memWriteAll (cfg : Config) : Memory → List (Nat × Color) → Except Fault Memory
  | m, [] => .ok m
  | m, (i, v) :: rest =>
    match memWrite cfg m i v with
    | .ok m' => memWriteAll cfg m' rest
    | .error f => .error f

/-- `MemRead` over a list of indices, in order; a fault stops it. -/
def memReadAll (cfg : Config) (m : Memory) : List Nat → Except Fault (List Color)
  | [] => .ok []
  | i :: rest =>
    match memRead cfg m i with
    | .error f => .error f
    | .ok v =>
      match memReadAll cfg m rest with
      | .error f => .error f
      | .ok vs => .ok (v :: vs)

/-! ### The ports -/

/-- `respond(bytes)` (R16, R78). -/
def respond (bytes : ByteString) (s : State) : State :=
  { s with responses := s.responses ++ [bytes] }

/-- `emit(frame)` (R16, R184): fire and forget (R60). -/
def emit (frame : LedFrame) (s : State) : State :=
  { s with emitted := s.emitted ++ [frame] }

/-- A refusal at the command port (R243): every register, FB and CACHE stay as they are, nothing is emitted or
responded, and the run keeps a mark with the reason. -/
def refuse (reason : PortRefusal) (s : State) : State :=
  { s with refusals := s.refusals ++ [reason] }

/-- How a meaning that works on the framebuffer ends. -/
def toOutcome : Except Fault State → Host.Outcome State Fault Refusal
  | .ok s => .next s
  | .error f => .fault f

end Sys2Proof.Machine
end

