-- ==== Sys2Proof/Machine/ColorMath.lean ====
section
/-! DEFINITION. The colour arithmetic of 41_color_math, exact integers throughout (D18), and its commands but for the
ones' response bytes, which Operands.lean writes. -/

namespace Sys2Proof.Machine

/-- `pack(r, g, b)` (R120). -/
def pack (r g b : Byte) : Color :=
  (r.zeroExtend 24 <<< 16) ||| (g.zeroExtend 24 <<< 8) ||| b.zeroExtend 24

/-- `red(c)` (R121). -/
def red (c : Color) : Byte := ((c >>> 16) &&& 0xFF).setWidth 8

/-- `green(c)` (R122). -/
def green (c : Color) : Byte := ((c >>> 8) &&& 0xFF).setWidth 8

/-- `blue(c)` (R123). -/
def blue (c : Color) : Byte := (c &&& 0xFF).setWidth 8

/-- `hueIndex(hue)`, 0..1530 (R125; PRESUMED by the spec itself, G1). -/
def hueIndex (hue : Hue) : Nat := (hue.toNat * 1530 + 32768) >>> 16

/-- `hexcone(i)`, for i in 0..1530 (R126; PRESUMED by the spec itself, G2). -/
def hexcone (i : Nat) : Byte × Byte × Byte :=
  if i < 255 then (255, BitVec.ofNat 8 i, 0)
  else if i < 510 then (BitVec.ofNat 8 (510 - i), 255, 0)
  else if i < 765 then (0, 255, BitVec.ofNat 8 (i - 510))
  else if i < 1020 then (0, BitVec.ofNat 8 (1020 - i), 255)
  else if i < 1275 then (BitVec.ofNat 8 (i - 1020), 0, 255)
  else if i < 1530 then (255, 0, BitVec.ofNat 8 (1530 - i))
  else (255, 0, 0)

/-- `sv(c, sat, val)` (R127; its last line PRESUMED by the spec itself, G3). -/
def sv (c sat val : Byte) : Byte :=
  let v1 := val.toNat + 1
  let s1 := sat.toNat + 1
  let s2 := 255 - sat.toNat
  BitVec.ofNat 8 (((((c.toNat * s1) >>> 8) + s2) * v1) >>> 8)

/-- HSV_TO_RGB's colour (R128). -/
def hsvToRgb (hue : Hue) (sat val : Byte) : Color :=
  let rgb := hexcone (hueIndex hue)
  pack (sv rgb.1 sat val) (sv rgb.2.1 sat val) (sv rgb.2.2 sat val)

/-- `GAMMA_LUT[x]` (R130). -/
def gammaCorrect (cfg : Config) (x : Byte) : Byte := cfg.gammaLut.get x.toFin

/-- `wheel(p)` (R131). -/
def wheel (pos : Byte) : Color :=
  let p := pos.toNat
  if p < 85 then pack (BitVec.ofNat 8 (255 - 3 * p)) 0 (BitVec.ofNat 8 (3 * p))
  else if p < 170 then
    let q := p - 85
    pack 0 (BitVec.ofNat 8 (3 * q)) (BitVec.ofNat 8 (255 - 3 * q))
  else
    let q := p - 170
    pack (BitVec.ofNat 8 (3 * q)) (BitVec.ofNat 8 (255 - 3 * q)) 0

/-- `blendCh(a, b, num, den)`: interpolation truncated toward a (R133; "/" is R15's truncating division). -/
def blendCh (a b : Byte) (num den : Nat) : Byte :=
  BitVec.ofInt 8 ((a.toNat : Int) + Int.tdiv (((b.toNat : Int) - (a.toNat : Int)) * (num : Int)) (den : Int))

/-- `blend(colorA, colorB, num, den)` (R134). -/
def blend (colorA colorB : Color) (num den : Nat) : Color :=
  pack (blendCh (red colorA) (red colorB) num den) (blendCh (green colorA) (green colorB) num den)
    (blendCh (blue colorA) (blue colorB) num den)

/-- `scaleCh(c, br)` (R136). -/
def scaleCh (c br : Byte) : Byte := BitVec.ofNat 8 ((c.toNat * br.toNat + 127) / 255)

/-- `scaleColor(c, br)` (R137). -/
def scaleColor (c : Color) (br : Byte) : Color :=
  pack (scaleCh (red c) br) (scaleCh (green c) br) (scaleCh (blue c) br)

/-- `dim(c)` (R193). -/
def dim (c : Color) : Color := pack (red c >>> 1) (green c >>> 1) (blue c >>> 1)

end Sys2Proof.Machine
end

