-- ==== Sys2Proof/Machine/Operands.lean ====
section
/-! DEFINITION. The response forms of R78, most significant byte first (R53). The operand forms of R72 are read in
Decode.lean. -/

namespace Sys2Proof.Machine

/-- A `U8` result. -/
def byteResponse (b : Byte) : ByteString := [b]

/-- A flag as a `U8` result: 0x01 or 0x00. -/
def flagResponse (b : Bool) : ByteString := [if b then 0x01 else 0x00]

/-- A `COLOR` result: R, G, B. -/
def colorResponse (c : Color) : ByteString := [red c, green c, blue c]

/-- LOOKUP's result: the found byte, then the code, 0x00 when not found. -/
def lookupResponse : Option SegCode → ByteString
  | some code => [0x01, code]
  | none => [0x00, 0x00]

/-- RESOLVE's result: the count K, then the K codes in order. -/
def codesResponse (codes : List SegCode) : ByteString := BitVec.ofNat 8 codes.length :: codes

end Sys2Proof.Machine
end

