-- ==== Sys2Proof/Machine/Flags.lean ====
section
/-! DEFINITION. The block has no condition codes and one status flag, READY (R34, R22): its two uses. -/

namespace Sys2Proof.Machine

/-- IS_READY's result (R226). -/
def readyResponse (s : State) : ByteString := flagResponse s.ready

/-- The READY gate of the render commands: while READY is 0 a render changes nothing (R182). -/
def whenReady (s : State) (run : Except Fault State) : Except Fault State :=
  if s.ready then run else .ok s

end Sys2Proof.Machine
end

