-- ==== Sys2Proof/Machine/Color.lean ====
section
/-! DEFINITION. The colour commands of the diagnostic port (41_color_math). They read no register and work whether or
not READY is 1. -/

namespace Sys2Proof.Machine

/-- PACK (R120). -/
def execPack (r g b : Byte) (s : State) : Host.Outcome State Fault Refusal :=
  .next (respond (colorResponse (pack r g b)) s)

/-- UNPACK_RED (R121). -/
def execUnpackRed (color : Color) (s : State) : Host.Outcome State Fault Refusal :=
  .next (respond (byteResponse (red color)) s)

/-- UNPACK_GREEN (R122). -/
def execUnpackGreen (color : Color) (s : State) : Host.Outcome State Fault Refusal :=
  .next (respond (byteResponse (green color)) s)

/-- UNPACK_BLUE (R123). -/
def execUnpackBlue (color : Color) (s : State) : Host.Outcome State Fault Refusal :=
  .next (respond (byteResponse (blue color)) s)

/-- HSV_TO_RGB (R128). -/
def execHsvToRgb (hue : Hue) (sat val : Byte) (s : State) : Host.Outcome State Fault Refusal :=
  .next (respond (colorResponse (hsvToRgb hue sat val)) s)

/-- GAMMA (R130). -/
def execGamma (x : Byte) (s : State) : Host.Outcome State Fault Refusal :=
  .next (respond (byteResponse (gammaCorrect s.cfg x)) s)

/-- WHEEL (R131). -/
def execWheel (pos : Byte) (s : State) : Host.Outcome State Fault Refusal :=
  .next (respond (colorResponse (wheel pos)) s)

/-- SCALE: it uses its operand, not the BRIGHTNESS register (R136). -/
def execScale (c br : Byte) (s : State) : Host.Outcome State Fault Refusal :=
  .next (respond (byteResponse (scaleCh c br)) s)

end Sys2Proof.Machine
end

