-- ==== Sys2Proof/Machine/Control.lean ====
section
/-! DEFINITION. The lifecycle and configuration commands (44_control). -/

namespace Sys2Proof.Machine

/-- BEGIN, the first or a repeated one (R220, R221). -/
def execBegin (brightness : Byte) (s : State) : Host.Outcome State Fault Refusal :=
  .next { s with brightness := brightness, ready := true }

/-- SET_BRIGHTNESS (R222). -/
def execSetBrightness (brightness : Byte) (s : State) : Host.Outcome State Fault Refusal :=
  .next { s with brightness := brightness }

/-- SET_FORCE_UPPERCASE: CACHE is not cleared, its key holds the table selection (R224). -/
def execSetForceUppercase (upper : Bool) (s : State) : Host.Outcome State Fault Refusal :=
  .next { s with forceUpper := upper }

/-- IS_READY (R226). -/
def execIsReady (s : State) : Host.Outcome State Fault Refusal :=
  .next (respond (readyResponse s) s)

end Sys2Proof.Machine
end

