-- ==== Sys2Proof/Machine/Glyph.lean ====
section
/-! DEFINITION. The glyph LUT and its three commands (40_glyph_table). -/

namespace Sys2Proof.Machine

/-- The alphabet in index order (R100). -/
def alphabet : List Byte :=
  [0x30, 0x31, 0x32, 0x33, 0x34, 0x35, 0x36, 0x37, 0x38, 0x39,
   0x61, 0x62, 0x63, 0x64, 0x65, 0x66, 0x67, 0x68, 0x69, 0x6A,
   0x6C, 0x6E, 0x6F, 0x70, 0x71, 0x72, 0x73, 0x75, 0x78, 0x79, 0x20, 0x2D]

/-- The position of a byte in a list, counted from `k`. -/
def positionFrom (ch : Byte) : Nat → List Byte → Option Nat
  | _, [] => none
  | k, c :: rest => if c = ch then some k else positionFrom ch (k + 1) rest

/-- The alphabet index of a byte (R100); none when the byte is not in the alphabet. -/
def alphabetIndex (ch : Byte) : Option (Fin 32) :=
  (positionFrom ch 0 alphabet).bind fun k => if h : k < 32 then some ⟨k, h⟩ else none

/-- `fold(ch)`: only ASCII A to Z change (R101). -/
def fold (ch : Byte) : Byte := if 0x41 ≤ ch ∧ ch ≤ 0x5A then ch + 0x20 else ch

/-- The table a flag selects (R24, R102). -/
def glyphTable (cfg : Config) (upper : Bool) : Vector SegCode 32 :=
  if upper then cfg.glyphUpper else cfg.glyphDefault

/-- `lookupFn(ch, upper)`: none is NotFound (R102). -/
def lookupFn (cfg : Config) (ch : Byte) (upper : Bool) : Option SegCode :=
  (alphabetIndex (fold ch)).map fun k => (glyphTable cfg upper).get k

/-- LOOKUP (R104). -/
def execLookup (ch : Byte) (upper : Bool) (s : State) : Host.Outcome State Fault Refusal :=
  .next (respond (lookupResponse (lookupFn s.cfg ch upper)) s)

/-- ALPHABET_SIZE (R106, R10). -/
def execAlphabetSize (s : State) : Host.Outcome State Fault Refusal :=
  .next (respond (byteResponse (BitVec.ofNat 8 alphabet.length)) s)

/-- GLYPH_AT (R107): an index that is out of range responds a free byte (R108, notes/assumptions/2.md). -/
def execGlyphAt (index : Byte) (s : State) : Host.Outcome State Fault Refusal :=
  match alphabet[index.toNat]? with
  | some ch => .next (respond (byteResponse ch) s)
  | none => .next (respond (byteResponse (Config.glyphAtOor s.draws index)) { s with draws := s.draws + 1 })

end Sys2Proof.Machine
end

