-- ==== Sys2Proof/Machine/GlyphCache.lean ====
section
/-! DEFINITION. The glyph cache: from a text to its SegmentCodes (42_glyph_cache). -/

namespace Sys2Proof.Machine

/-- The dot, `.` (R160). -/
def dot : Byte := 0x2E

/-- The decimal-point bit of a SegmentCode (R70). -/
def dpBit : SegCode := 0x80

/-- The code of a byte that is not a dot: the blank code for an unsupported one (R105, R161). -/
def glyphCode (cfg : Config) (upper : Bool) (ch : Byte) : SegCode :=
  (lookupFn cfg ch upper).getD 0x00

/-- A dot merges when there is a previous code and its decimal-point bit is 0 (R161). -/
def canMerge (codes : List SegCode) : Bool :=
  match codes.getLast? with
  | some last => !last.getLsbD 7
  | none => false

/-- Set the decimal-point bit of the last code. -/
def mergeDot : List SegCode → List SegCode
  | [] => []
  | [last] => [last ||| dpBit]
  | c :: rest => c :: mergeDot rest

/-- The loop of R161 from the codes built so far. It stops at the first byte that would need unit N+1. -/
def resolveFrom (cfg : Config) (upper : Bool) : List SegCode → Text → List SegCode
  | codes, [] => codes
  | codes, ch :: rest =>
    if ch = dot then
      if canMerge codes then resolveFrom cfg upper (mergeDot codes) rest
      else if codes.length = cfg.units then codes
      else resolveFrom cfg upper (codes ++ [dpBit]) rest
    else if codes.length = cfg.units then codes
    else resolveFrom cfg upper (codes ++ [glyphCode cfg upper ch]) rest

/-- `resolvePure(text, upper)` (R161). -/
def resolvePure (cfg : Config) (text : Text) (upper : Bool) : List SegCode :=
  resolveFrom cfg upper [] text

/-- The cache holds the result for this text under the current FORCE_UPPER (R162). -/
def cacheHit (text : Text) (s : State) : Bool :=
  s.cache.valid && decide (s.cache.text = text) && decide (s.cache.upper = s.forceUpper)

/-- The codes that `resolve(text)` returns (R162). -/
def resolveCodes (text : Text) (s : State) : List SegCode :=
  if cacheHit text s then s.cache.codes else resolvePure s.cfg text s.forceUpper

/-- The state that `resolve(text)` leaves: CACHE is written only when the key differs (R162). -/
def resolveState (text : Text) (s : State) : State :=
  if cacheHit text s then s
  else { s with cache := { valid := true, text := text, upper := s.forceUpper, codes := resolvePure s.cfg text s.forceUpper } }

/-- RESOLVE (R164). -/
def execResolve (text : Text) (s : State) : Host.Outcome State Fault Refusal :=
  .next (respond (codesResponse (resolveCodes text s)) (resolveState text s))

end Sys2Proof.Machine
end

