-- ==== Sys2Proof/Machine/FrameComposer.lean ====
section
/-! DEFINITION. The frame composer, the segment-to-pixel expander, the emit and the five render commands
(43_frame_composer). -/

namespace Sys2Proof.Machine

/-- An on-colour function: the colour a lit LED `p` of unit `u` gets (R183). -/
abbrev OnColor := Nat → Led → Color

/-! ### The common render procedure -/

/-- The writes of one segment: its on colours when the code's bit is 1, black otherwise (R181). -/
def segmentWrites (cfg : Config) (onColor : OnColor) (u : Nat) (code : SegCode) (k : Fin 8) : List (Nat × Color) :=
  (cfg.segMap.get k).map fun p => (ledIndex u p, if code.getLsbD k.val then onColor u p else black)

/-- `expandUnit(u, code, onColor)`, as the list of its writes in loop order (R181). -/
def expandUnit (cfg : Config) (onColor : OnColor) (u : Nat) (code : SegCode) : List (Nat × Color) :=
  ([0, 1, 2, 3, 4, 5, 6, 7] : List (Fin 8)).flatMap (segmentWrites cfg onColor u code)

/-- The writes of the units from `u` on, one code a unit (R180). -/
def expandUnits (cfg : Config) (onColor : OnColor) : Nat → List SegCode → List (Nat × Color)
  | _, [] => []
  | u, code :: rest => expandUnit cfg onColor u code ++ expandUnits cfg onColor (u + 1) rest

/-- All of a render's writes, in order: every entry black, then the units, clamped to the chain's capacity (R180). -/
def renderWrites (cfg : Config) (onColor : OnColor) (codes : List SegCode) : List (Nat × Color) :=
  (List.range (ledCount cfg)).map (fun i => (i, black)) ++ expandUnits cfg onColor 0 (codes.take cfg.units)

/-- `scaleFrame()`: the framebuffer scaled by a brightness (R184). -/
def scaleFrame (cfg : Config) (fb : Memory) (br : Byte) : Except Fault LedFrame :=
  match memReadAll cfg fb (List.range (ledCount cfg)) with
  | .ok colors => .ok (colors.map fun c => scaleColor c br)
  | .error f => .error f

/-- A render that takes effect, from the resolved state: write FB, then emit it scaled (R180, R184). -/
def composeAndEmit (onColor : OnColor) (codes : List SegCode) (s : State) : Except Fault State :=
  match memWriteAll s.cfg s.fb (renderWrites s.cfg onColor codes) with
  | .error f => .error f
  | .ok fb =>
    match scaleFrame s.cfg fb s.brightness with
    | .error f => .error f
    | .ok frame => .ok (emit frame { s with fb := fb })

/-- `renderCommon(text, onColor)` (R180, R182). -/
def renderCommon (text : Text) (onColor : OnColor) (s : State) : Except Fault State :=
  whenReady s (composeAndEmit onColor (resolveCodes text s) (resolveState text s))

/-! ### The on-colour functions -/

/-- R185. -/
def onSolid (color : Color) : OnColor := fun _ _ => color

/-- R187. -/
def onVGrad (cfg : Config) (colorA colorB : Color) : OnColor := fun _ p =>
  blend colorA colorB (cfg.pixelXY.get p).2.val yDen

/-- R189. -/
def onHGrad (cfg : Config) (colorA colorB : Color) : OnColor := fun u p =>
  blend colorA colorB ((cfg.pixelXY.get p).1.val + colsPerUnit * u) (colsPerUnit * cfg.units)

/-- R191. -/
def onCycle (offset : Byte) : OnColor := fun _ p =>
  wheel (BitVec.ofNat 8 ((offset.toNat + cycleStep * p.val) % 256))

/-- The minute colour: dimmed on odd seconds (R195). -/
def minuteColor (seconds : Byte) (colorM : Color) : Color :=
  if seconds.toNat % 2 = 1 then dim colorM else colorM

/-- R195. -/
def onClock (cfg : Config) (seconds : Byte) (colorH colorM : Color) : OnColor := fun u _ =>
  if u ≥ max cfg.units 4 - 2 then minuteColor seconds colorM else colorH

/-! ### The clock text -/

/-- `dd(v)`: two ASCII digits (R194). -/
def twoDigits (v : Byte) : Text :=
  [BitVec.ofNat 8 (0x30 + v.toNat / 10), BitVec.ofNat 8 (0x30 + v.toNat % 10)]

/-- The fields the clock refuses (R194). -/
def clockOutOfRange (hours minutes : Byte) : Bool := decide (hours.toNat > 99 ∨ minutes.toNat > 99)

/-- The clock text: "HHMM", left-padded with spaces to the chain's length (R194). -/
def clockText (cfg : Config) (hours minutes : Byte) : Text :=
  List.replicate (cfg.units - 4) 0x20 ++ (twoDigits hours ++ twoDigits minutes)

/-! ### The commands -/

/-- RENDER_SOLID (R186). -/
def execRenderSolid (text : Text) (color : Color) (s : State) : Host.Outcome State Fault Refusal :=
  toOutcome (renderCommon text (onSolid color) s)

/-- RENDER_VGRAD (R188). -/
def execRenderVGrad (text : Text) (colorA colorB : Color) (s : State) : Host.Outcome State Fault Refusal :=
  toOutcome (renderCommon text (onVGrad s.cfg colorA colorB) s)

/-- RENDER_HGRAD (R190). -/
def execRenderHGrad (text : Text) (colorA colorB : Color) (s : State) : Host.Outcome State Fault Refusal :=
  toOutcome (renderCommon text (onHGrad s.cfg colorA colorB) s)

/-- RENDER_CYCLE (R192). -/
def execRenderCycle (text : Text) (offset : Byte) (s : State) : Host.Outcome State Fault Refusal :=
  toOutcome (renderCommon text (onCycle offset) s)

/-- RENDER_CLOCK (R196): the range check comes before the READY gate and regardless of it (R194). -/
def execRenderClock (hours minutes seconds : Byte) (colorH colorM : Color) (s : State) :
    Host.Outcome State Fault Refusal :=
  if clockOutOfRange hours minutes then .next (refuse .clockFieldRange s)
  else toOutcome (renderCommon (clockText s.cfg hours minutes) (onClock s.cfg seconds colorH colorM) s)

end Sys2Proof.Machine
end

