-- ==== Sys2Proof/Machine/Dispatch.lean ====
section
/-! DEFINITION. The dispatch: one arm per command of R73, each one call of its meaning. -/

namespace Sys2Proof.Machine

/-- The effect of one command (R13, R55: one atomic transition). -/
def exec (i : Instr) (s : State) : Host.Outcome State Fault Refusal :=
  match i with
  | .begin b => Sys2Proof.Machine.execBegin b s
  | .setBrightness b => Sys2Proof.Machine.execSetBrightness b s
  | .setForceUppercase u => Sys2Proof.Machine.execSetForceUppercase u s
  | .isReady => Sys2Proof.Machine.execIsReady s
  | .alphabetSize => Sys2Proof.Machine.execAlphabetSize s
  | .glyphAt k => Sys2Proof.Machine.execGlyphAt k s
  | .renderSolid t c => Sys2Proof.Machine.execRenderSolid t c s
  | .renderVGrad t a b => Sys2Proof.Machine.execRenderVGrad t a b s
  | .renderHGrad t a b => Sys2Proof.Machine.execRenderHGrad t a b s
  | .renderCycle t o => Sys2Proof.Machine.execRenderCycle t o s
  | .renderClock h m sec ch cm => Sys2Proof.Machine.execRenderClock h m sec ch cm s
  | .lookup ch u => Sys2Proof.Machine.execLookup ch u s
  | .pack r g b => Sys2Proof.Machine.execPack r g b s
  | .unpackRed c => Sys2Proof.Machine.execUnpackRed c s
  | .unpackGreen c => Sys2Proof.Machine.execUnpackGreen c s
  | .unpackBlue c => Sys2Proof.Machine.execUnpackBlue c s
  | .hsvToRgb h sat val => Sys2Proof.Machine.execHsvToRgb h sat val s
  | .gamma x => Sys2Proof.Machine.execGamma x s
  | .wheel p => Sys2Proof.Machine.execWheel p s
  | .scale c br => Sys2Proof.Machine.execScale c br s
  | .resolve t => Sys2Proof.Machine.execResolve t s

end Sys2Proof.Machine
end

