-- ==== Sys2Proof/Machine/Port.lean ====
section
/-! DEFINITION. Taking a command from the command port (30_encoding, R58). -/

namespace Sys2Proof.Machine

/-- The host's next command is taken: it is no longer to be issued. -/
def takeCommand (rest : List Issued) (s : State) : State :=
  { s with pending := rest }

/-- The host issues a frame next, ahead of the commands it has still to issue, and only when the block is free. -/
def issueNext (frame : ByteString) (s : State) : State :=
  { s with pending := { frame := frame, overlapping := false } :: s.pending }

end Sys2Proof.Machine
end

