-- ==== Sys2Proof/Machine/Step.lean ====
section
/-! DEFINITION. One step: the block performs the host's next command (R13, R58). -/

namespace Sys2Proof.Machine

/-- With no command to perform the block stays as it is (notes/assumptions/5.md). A command issued too early is not
described (R263). DESIGN CHOICE: the overlap is looked at before the frame is decoded, so `reentrant` is the reason
whatever the frame holds; R244's order does not place Reentrant (notes/assumptions/15.md). A frame that the port
refuses leaves its mark and nothing else (R74, R75, R243). -/
def step (s : State) : Host.Outcome State Fault Refusal :=
  match s.pending with
  | [] => .next s
  | c :: rest =>
    if c.overlapping then .refused .reentrant
    else
      match decode c.frame with
      | .error reason => .next (refuse reason (takeCommand rest s))
      | .ok i => exec i (takeCommand rest s)

/-- The state in which the host's next command is the table word's instruction (notes/assumptions/4.md). -/
def State.withFetchWord (s : State) (nbits w : Nat) : State :=
  issueNext (tableFrame nbits w) s

end Sys2Proof.Machine
end

