-- ==== Sys2Proof/Machine/Assembler.lean ====
section
/-! DEFINITION. The textual syntax of a command (R79): an assembler from a line of ASCII bytes to a frame, and a
disassembler that writes one line for a command. No step uses them; the host's tools do. -/

namespace Sys2Proof.Machine

/-- The ASCII bytes of a string. -/
def ascii (text : String) : ByteString := text.toList.map fun c => BitVec.ofNat 8 c.toNat

/-- The operand types of R72. -/
inductive OperandType where
  | u8 | bool | u16 | color | text
deriving DecidableEq, Repr

/-- One row of R73: mnemonic, opcode, operand types in frame order. -/
structure AsmRow where
  name : String
  op : Byte
  operands : List OperandType
deriving DecidableEq, Repr

def asmRows : List AsmRow :=
  [⟨"BEGIN", 0x01, [.u8]⟩, ⟨"SET_BRIGHTNESS", 0x02, [.u8]⟩, ⟨"SET_FORCE_UPPERCASE", 0x03, [.bool]⟩,
   ⟨"IS_READY", 0x04, []⟩, ⟨"ALPHABET_SIZE", 0x05, []⟩, ⟨"GLYPH_AT", 0x06, [.u8]⟩,
   ⟨"RENDER_SOLID", 0x10, [.text, .color]⟩, ⟨"RENDER_VGRAD", 0x11, [.text, .color, .color]⟩,
   ⟨"RENDER_HGRAD", 0x12, [.text, .color, .color]⟩, ⟨"RENDER_CYCLE", 0x13, [.text, .u8]⟩,
   ⟨"RENDER_CLOCK", 0x14, [.u8, .u8, .u8, .color, .color]⟩, ⟨"LOOKUP", 0x20, [.u8, .bool]⟩,
   ⟨"PACK", 0x21, [.u8, .u8, .u8]⟩, ⟨"UNPACK_RED", 0x22, [.color]⟩, ⟨"UNPACK_GREEN", 0x23, [.color]⟩,
   ⟨"UNPACK_BLUE", 0x24, [.color]⟩, ⟨"HSV_TO_RGB", 0x25, [.u16, .u8, .u8]⟩, ⟨"GAMMA", 0x26, [.u8]⟩,
   ⟨"WHEEL", 0x27, [.u8]⟩, ⟨"SCALE", 0x28, [.u8, .u8]⟩, ⟨"RESOLVE", 0x29, [.text]⟩]

/-! ### Reading a line -/

/-- The value of a decimal digit byte. -/
def decDigit (b : Byte) : Option Nat :=
  if 0x30 ≤ b ∧ b ≤ 0x39 then some (b.toNat - 0x30) else none

/-- The value of a hex digit byte, of either case (notes/assumptions/11.md). -/
def hexDigit (b : Byte) : Option Nat :=
  if 0x30 ≤ b ∧ b ≤ 0x39 then some (b.toNat - 0x30)
  else if 0x41 ≤ b ∧ b ≤ 0x46 then some (b.toNat - 0x41 + 10)
  else if 0x61 ≤ b ∧ b ≤ 0x66 then some (b.toNat - 0x61 + 10)
  else none

/-- Read digits as long as they last, from the value read so far. -/
def readDigits (digit : Byte → Option Nat) (base : Nat) : Nat → ByteString → Nat × ByteString
  | acc, [] => (acc, [])
  | acc, b :: rest =>
    match digit b with
    | some d => readDigits digit base (acc * base + d) rest
    | none => (acc, b :: rest)

/-- At least one digit. -/
def readNumeral (digit : Byte → Option Nat) (base : Nat) : ByteString → Option (Nat × ByteString)
  | [] => none
  | b :: rest => (digit b).map fun d => readDigits digit base d rest

/-- A `U8` or `U16` operand: decimal, or `0x` and hex digits (R79). -/
def readNumber : ByteString → Option (Nat × ByteString)
  | b0 :: b1 :: rest =>
    if b0 = 0x30 ∧ b1 = 0x78 then readNumeral hexDigit 16 rest else readNumeral decDigit 10 (b0 :: b1 :: rest)
  | line => readNumeral decDigit 10 line

/-- Exactly `n` hex digits, as a number from the value read so far. -/
def readHex : Nat → Nat → ByteString → Option (Nat × ByteString)
  | 0, acc, line => some (acc, line)
  | _ + 1, _, [] => none
  | n + 1, acc, b :: rest => (hexDigit b).bind fun d => readHex n (acc * 16 + d) rest

/-- The bytes of a quoted string after its opening quote, and what follows its closing quote. A backslash starts an
escape: another quote, another backslash, or `x` and two hex digits (R79). -/
def readQuoted : ByteString → Option (Text × ByteString)
  | [] => none
  | b :: rest =>
    if b = 0x22 then some ([], rest)
    else if b = 0x5C then
      match rest with
      | [] => none
      | e :: rest' =>
        if e = 0x22 ∨ e = 0x5C then (readQuoted rest').map fun (t, r) => (e :: t, r)
        else if e = 0x78 then
          match rest' with
          | h :: l :: rest'' =>
            (hexDigit h).bind fun dh => (hexDigit l).bind fun dl =>
              (readQuoted rest'').map fun (t, r) => (BitVec.ofNat 8 (dh * 16 + dl) :: t, r)
          | _ => none
        else none
    else if b < 0x80 then (readQuoted rest).map fun (t, r) => (b :: t, r)
    else none

/-- One operand: its frame bytes (R72) and the rest of the line. A number too wide for its operand and a string of
more than 255 bytes are assembly errors. -/
def readOperand : OperandType → ByteString → Option (ByteString × ByteString)
  | .u8, line => (readNumber line).bind fun (v, rest) => if v < 256 then some ([BitVec.ofNat 8 v], rest) else none
  | .u16, line =>
    (readNumber line).bind fun (v, rest) => if v < 65536 then some (encodeU16 (BitVec.ofNat 16 v), rest) else none
  | .bool, b :: rest =>
    if b = 0x30 then some (encodeBool false, rest) else if b = 0x31 then some (encodeBool true, rest) else none
  | .color, b :: rest =>
    if b = 0x23 then (readHex 6 0 rest).map fun (v, rest) => (encodeColor (BitVec.ofNat 24 v), rest) else none
  | .text, b :: rest =>
    if b = 0x22 then
      (readQuoted rest).bind fun (t, rest) => if textFits t then some (encodeText t, rest) else none
    else none
  | _, [] => none

/-- The operands of a line, separated by a comma and a space, to its end. -/
def readOperands : List OperandType → ByteString → Option ByteString
  | [], line => if line = [] then some [] else none
  | [t], line => (readOperand t line).bind fun (bs, rest) => if rest = [] then some bs else none
  | t :: t' :: ts, line =>
    (readOperand t line).bind fun (bs, rest) =>
      match rest with
      | c :: sp :: rest' =>
        if c = 0x2C ∧ sp = 0x20 then (readOperands (t' :: ts) rest').map fun more => bs ++ more else none
      | _ => none

/-- The row whose mnemonic starts the line, with what follows the mnemonic: nothing for a command with no operands, a
space and the operands for the others. -/
def readRow (line : ByteString) : Option (AsmRow × ByteString) :=
  let name := line.takeWhile fun b => b ≠ 0x20
  (asmRows.find? fun row => ascii row.name = name).map fun row => (row, line.drop name.length)

/-- The frame of a line of the textual syntax (R79). -/
def assemble (line : ByteString) : Option ByteString :=
  (readRow line).bind fun (row, rest) =>
    match row.operands, rest with
    | [], [] => some [row.op]
    | [], _ :: _ => none
    | _ :: _, [] => none
    | t :: ts, _ :: rest' => (readOperands (t :: ts) rest').map fun bs => row.op :: bs

/-! ### Writing a line -/

/-- An upper-case hex digit. -/
def writeHexDigit (d : Nat) : Byte := if d < 10 then BitVec.ofNat 8 (0x30 + d) else BitVec.ofNat 8 (0x37 + d)

/-- The `n` hex digits of a number, most significant first. -/
def writeHex : Nat → Nat → ByteString
  | 0, _ => []
  | n + 1, v => writeHex n (v / 16) ++ [writeHexDigit (v % 16)]

def writeU8 (b : Byte) : ByteString := 0x30 :: 0x78 :: writeHex 2 b.toNat

def writeU16 (h : Hue) : ByteString := 0x30 :: 0x78 :: writeHex 4 h.toNat

def writeBool (b : Bool) : ByteString := [if b then 0x31 else 0x30]

def writeColor (c : Color) : ByteString := 0x23 :: writeHex 6 c.toNat

/-- A byte of a string: the quote and the backslash escaped, other printable ASCII as itself, the rest in hex (R79). -/
def writeChar (b : Byte) : ByteString :=
  if b = 0x22 ∨ b = 0x5C then [0x5C, b]
  else if 0x20 ≤ b ∧ b ≤ 0x7E then [b]
  else 0x5C :: 0x78 :: writeHex 2 b.toNat

def writeText (t : Text) : ByteString := 0x22 :: (t.flatMap writeChar ++ [0x22])

/-- The operands of a command as written, in frame order. -/
def writtenOperands : Instr → List ByteString
  | .begin b => [writeU8 b]
  | .setBrightness b => [writeU8 b]
  | .setForceUppercase u => [writeBool u]
  | .isReady => []
  | .alphabetSize => []
  | .glyphAt k => [writeU8 k]
  | .renderSolid t c => [writeText t, writeColor c]
  | .renderVGrad t a b => [writeText t, writeColor a, writeColor b]
  | .renderHGrad t a b => [writeText t, writeColor a, writeColor b]
  | .renderCycle t o => [writeText t, writeU8 o]
  | .renderClock h m s ch cm => [writeU8 h, writeU8 m, writeU8 s, writeColor ch, writeColor cm]
  | .lookup ch u => [writeU8 ch, writeBool u]
  | .pack r g b => [writeU8 r, writeU8 g, writeU8 b]
  | .unpackRed c => [writeColor c]
  | .unpackGreen c => [writeColor c]
  | .unpackBlue c => [writeColor c]
  | .hsvToRgb h s v => [writeU16 h, writeU8 s, writeU8 v]
  | .gamma x => [writeU8 x]
  | .wheel p => [writeU8 p]
  | .scale c b => [writeU8 c, writeU8 b]
  | .resolve t => [writeText t]

/-- Operands separated by a comma and a space. -/
def separated : List ByteString → ByteString
  | [] => []
  | [o] => o
  | o :: o' :: rest => o ++ 0x2C :: 0x20 :: separated (o' :: rest)

/-- The mnemonic of a command (R73). -/
def mnemonicOf (i : Instr) : ByteString :=
  match asmRows.find? fun row => row.op = opcode i with
  | some row => ascii row.name
  | none => []

/-- A line of the textual syntax for a command (R79). -/
def disassemble (i : Instr) : ByteString :=
  match writtenOperands i with
  | [] => mnemonicOf i
  | o :: os => mnemonicOf i ++ 0x20 :: separated (o :: os)

end Sys2Proof.Machine
end

