-- ==== Sys2Proof/Safety.lean ====
section
/-! DEFINITION. What counts as a legal state and as a run that claims are made about, and the relations the
statements are written in. -/

namespace Sys2Proof.Machine

/-- The cache holds the pure result of its key whenever it is valid (R28). -/
def State.cacheCoherent (s : State) : Prop :=
  s.cache.valid = true → s.cache.codes = resolvePure s.cfg s.cache.text s.cache.upper

/-- The legal states: FB is in its canonical form and inside 0 .. 15N-1 (R26, R50), the cache is coherent (R28), and
every emitted frame has 15N colours (R33). -/
structure State.Inv (s : State) : Prop where
  fb_wf : Memory.wf (ledCount s.cfg) s.fb
  cache_coherent : s.cacheCoherent
  frames_full : ∀ frame ∈ s.emitted, frame.length = ledCount s.cfg

/-- No command of the run so far was refused. R243: a claim about a stream that holds a refused command says nothing
about the block, so a claim about what a host sees takes this as a premise. -/
def State.unmarked (s : State) : Prop := s.refusals = []

/-- The commands that return a response (R78); the others return none (R77). -/
def isQuery : Instr → Bool
  | .begin _ => false
  | .setBrightness _ => false
  | .setForceUppercase _ => false
  | .isReady => true
  | .alphabetSize => true
  | .glyphAt _ => true
  | .renderSolid _ _ => false
  | .renderVGrad _ _ _ => false
  | .renderHGrad _ _ _ => false
  | .renderCycle _ _ => false
  | .renderClock _ _ _ _ _ => false
  | .lookup _ _ => true
  | .pack _ _ _ => true
  | .unpackRed _ => true
  | .unpackGreen _ => true
  | .unpackBlue _ => true
  | .hsvToRgb _ _ _ => true
  | .gamma _ => true
  | .wheel _ => true
  | .scale _ _ => true
  | .resolve _ => true

/-- The render commands that are not refused: a clock within its range (R180, R194). -/
def isRender : Instr → Bool
  | .renderSolid _ _ => true
  | .renderVGrad _ _ _ => true
  | .renderHGrad _ _ _ => true
  | .renderCycle _ _ => true
  | .renderClock h m _ _ _ => decide (h.toNat ≤ 99 ∧ m.toNat ≤ 99)
  | .begin _ => false
  | .setBrightness _ => false
  | .setForceUppercase _ => false
  | .isReady => false
  | .alphabetSize => false
  | .glyphAt _ => false
  | .lookup _ _ => false
  | .pack _ _ _ => false
  | .unpackRed _ => false
  | .unpackGreen _ => false
  | .unpackBlue _ => false
  | .hsvToRgb _ _ _ => false
  | .gamma _ => false
  | .wheel _ => false
  | .scale _ _ => false
  | .resolve _ => false

/-- What a render that takes effect does, from `s` to `t` (R180, R181, R184). `codes` are what `resolve` returns in `s`.
Every LED of the chain is written: the on colour where its unit has a code and the code's bit of the LED's segment is
1, black everywhere else. No other entry changes. One frame, FB scaled by BRIGHTNESS, is emitted. Everything else is as
`resolve` leaves it, which writes CACHE alone. -/
structure RenderEffect (text : Text) (onColor : Nat → Led → Color) (s t : State) : Prop where
  rest : t = { s with cache := (resolveState text s).cache, fb := t.fb, emitted := t.emitted }
  painted : ∀ u < s.cfg.units, ∀ k : Fin 8, ∀ p ∈ s.cfg.segMap.get k,
    t.fb.get (15 * u + p.val) = if ((resolveCodes text s).getD u 0).getLsbD k.val then onColor u p else 0x000000
  others : ∀ i, 15 * s.cfg.units ≤ i → t.fb.get i = s.fb.get i
  emitted : t.emitted =
    s.emitted ++ [(List.range (15 * s.cfg.units)).map fun i => scaleColor (t.fb.get i) s.brightness]

end Sys2Proof.Machine
end

