-- ==== Sys2Proof/Certificates/Slice0/Obligations.lean ====
section
/-! DEFINITION. The statements for the provers. They hold for every state, so for every configuration a state can carry
(notes/assumptions/1.md); where one needs a legal state it says so with `State.Inv` or `State.cacheCoherent`. -/

open Sys2Proof Sys2Proof.Machine

/-! ### The step -/

/-- R13, R58 (one command, one transition: the spec's decision D1): when the host's next command is a frame that
decodes to `i`, the step is `exec i` with that command taken from the host's list, and nothing else around it. -/
def Obligations.StepPerformsDecodedCommand : Prop :=
  ∀ (s : State) (frame : ByteString) (rest : List Issued) (i : Instr),
    s.pending = { frame := frame, overlapping := false } :: rest → decode frame = .ok i →
      step s = exec i { s with pending := rest }

/-- A table word that decodes to `i`, stored where the step takes its next command, is run by the very next step
(where that is, and how operand bytes that the table gives no bits are filled, are the model's choices,
notes/assumptions/4.md and 10.md). -/
def Obligations.StoredTableWordIsRunNext : Prop :=
  ∀ (s : State) (nbits w : Nat) (i : Instr),
    decodeTableWord nbits w = some i → step (s.withFetchWord nbits w) = exec i s

/-- R74, R75, R243: a frame that the port refuses leaves every register, FB, CACHE and both logs as they were; the
run's refusal mark gets the reason. That this is a next state is the model's choice (notes/assumptions/3.md). -/
def Obligations.RefusedFrameLeavesOnlyItsMark : Prop :=
  ∀ (s : State) (frame : ByteString) (rest : List Issued) (reason : PortRefusal),
    s.pending = { frame := frame, overlapping := false } :: rest → decode frame = .error reason →
      step s = .next { s with pending := rest, refusals := s.refusals ++ [reason] }

/-- R263 and the idle block. A command issued before the previous one is complete stops the run with `reentrant`,
whatever its frame, so ahead of the three reasons that R244 ranks (how an overlap is written in the state, and that it
is looked at first, are the model's choices, notes/assumptions/4.md and 15.md). With no command to perform the block
stays as it is (the model's choice, notes/assumptions/5.md). -/
def Obligations.OverlapStopsTheRunAndIdlenessKeepsIt : Prop :=
  (∀ (s : State) (frame : ByteString) (rest : List Issued),
    s.pending = { frame := frame, overlapping := true } :: rest → step s = .refused .reentrant) ∧
  ∀ s : State, s.pending = [] → step s = .next s

/-- R264 (which the spec derives): every command completes. In every state, `exec` of every command answers a next
state; that RENDER_CLOCK with hours or minutes above 99, to which R243 gives no meaning, does so is the model's choice
(notes/assumptions/3.md). -/
def Obligations.EveryCommandCompletes : Prop :=
  ∀ (i : Instr) (s : State), ∃ t, exec i s = .next t

/-- R240: the block raises no exception and has no fault state: no command and no step answers a fault, in any state;
in particular no framebuffer index outside 0 .. 15N-1 is ever formed (R50). -/
def Obligations.NothingEverFaults : Prop :=
  (∀ (i : Instr) (s : State) (f : Fault), exec i s ≠ .fault f) ∧ ∀ (s : State) (f : Fault), step s ≠ .fault f

/-! ### Encoding -/

/-- R74: the illegal opcodes are exactly 0x00, 0x07 to 0x0F, 0x15 to 0x1F and 0x2A to 0xFF, whatever follows the
opcode byte (R244: the opcode is checked first; both are the spec's decision D4). -/
def Obligations.IllegalOpcodesAreTheUnlistedOnes : Prop :=
  ∀ (op : Byte) (operands : ByteString),
    decode (op :: operands) = .error .illegalOpcode ↔
      op = 0x00 ∨ (0x07 ≤ op ∧ op ≤ 0x0F) ∨ (0x15 ≤ op ∧ op ≤ 0x1F) ∨ 0x2A ≤ op

/-- R75: a frame with a legal opcode is malformed exactly when its length is not the one its layout asks for, or the
BOOL byte of SET_FORCE_UPPERCASE or LOOKUP is neither 0x00 nor 0x01. No other operand value is illegal (the spec's
decisions D4 and D5). -/
def Obligations.MalformedFramesAreWrongLengthOrBadBool : Prop :=
  ∀ (op : Byte) (operands : ByteString),
    decode (op :: operands) = .error .malformedFrame ↔
      (∃ n, frameLength (op :: operands) = some n ∧ n ≠ operands.length + 1) ∨
      (op = 0x03 ∧ ∃ b, operands = [b] ∧ b ≠ 0x00 ∧ b ≠ 0x01) ∨
      (op = 0x20 ∧ ∃ ch b, operands = [ch, b] ∧ b ≠ 0x00 ∧ b ≠ 0x01)

/-- R76: the opcode byte and, for a layout with a TEXT operand, that operand's length byte tell a frame's length (the
spec's decision D2). -/
def Obligations.DecodedFrameHasItsLayoutsLength : Prop :=
  ∀ (frame : ByteString) (i : Instr), decode frame = .ok i → frameLength frame = some frame.length

/-- R72, R73: decoding the frame of a well-formed command gives the command, for every command and every operand (the
command port is the spec's decisions D3 and D6). -/
def Obligations.DecodeEncodeRoundTrip : Prop :=
  ∀ i : Instr, wellFormed i = true → decode (encode i) = .ok i

/-- R72, R73: a frame that decodes is the frame of the command it decodes to, and that command is well-formed: each
command has one frame (the command port is the spec's decisions D3 and D6). -/
def Obligations.EncodeDecodeRoundTrip : Prop :=
  ∀ (frame : ByteString) (i : Instr), decode frame = .ok i → wellFormed i = true ∧ encode i = frame

/-- Sample frames of R73, written out byte by byte, decode to the commands they stand for (the command port is the
spec's decisions D2 to D6). -/
def Obligations.SampleFramesDecode : Prop :=
  decode [0x01, 0x80] = .ok (.begin 128) ∧
  decode [0x06, 0x0A] = .ok (.glyphAt 10) ∧
  decode [0x10, 0x03, 0x31, 0x2E, 0x32, 0xFF, 0x00, 0x00] = .ok (.renderSolid [0x31, 0x2E, 0x32] 0xFF0000) ∧
  decode [0x25, 0x55, 0x55, 0x80, 0x80] = .ok (.hsvToRgb 21845 128 128) ∧
  decode [0x29, 0x00] = .ok (.resolve []) ∧
  decode [0x03, 0x02] = .error .malformedFrame ∧
  decode [0x14, 0x64] = .error .malformedFrame ∧
  decode [0x07, 0xFF] = .error .illegalOpcode

/-- R79: assembling the written form of a well-formed command gives its frame, for every command and every operand.
Which of the forms R79 allows `disassemble` writes is the model's choice (notes/assumptions/11.md). -/
def Obligations.AssembleDisassembleRoundTrip : Prop :=
  ∀ i : Instr, wellFormed i = true → assemble (disassemble i) = some (encode i)

/-! ### Reset and the legal states -/

/-- R260: what creation leaves, for every configuration; FB is stated entry by entry (the values of BRIGHTNESS,
FORCE_UPPER, FB and CACHE are the spec's decisions D28 and D17). -/
def Obligations.CreationLeavesTheResetState : Prop :=
  ∀ cfg : Config,
    (State.create cfg).ready = false ∧ (State.create cfg).brightness = 0 ∧ (State.create cfg).forceUpper = false ∧
    (∀ i, (State.create cfg).fb.get i = 0x000000) ∧ (State.create cfg).cache.valid = false ∧
    (State.create cfg).emitted = [] ∧ (State.create cfg).responses = [] ∧ (State.create cfg).cfg = cfg

/-- The legal states hold at reset: in a newly created block of any configuration, and in `State.reset`. -/
def Obligations.CreatedStatesAreLegal : Prop :=
  (∀ cfg : Config, (State.create cfg).Inv) ∧ State.reset.Inv

/-- R26, R28, R33, R50: every step keeps a legal state legal: the framebuffer in its canonical form and within 15N
entries, the cache the pure result of its key, every emitted frame 15N colours long (that the key holds FORCE_UPPER is
the spec's decision D16; the canonical form is the model's choice, notes/assumptions/9.md). -/
def Obligations.StepKeepsLegalStates : Prop :=
  ∀ s t : State, s.Inv → step s = .next t → t.Inv

/-- R29: no command writes the constant tables (nor N, R5), and no reset changes them. -/
def Obligations.NoCommandWritesTheTables : Prop :=
  (∀ (i : Instr) (s t : State), exec i s = .next t → t.cfg = s.cfg) ∧
  (∀ s t : State, step s = .next t → t.cfg = s.cfg) ∧
  ∀ cfg : Config, (State.create cfg).cfg = cfg

/-- R22, with each of its clauses: READY resets to 0; BEGIN sets it; no command clears it; while it is 0 a render is a
no-op (a RENDER_CLOCK out of its range is refused instead, R182); IS_READY returns it. -/
def Obligations.ReadyFlagRule : Prop :=
  (∀ cfg : Config, (State.create cfg).ready = false) ∧
  (∀ (b : Byte) (s : State), ∃ t, exec (.begin b) s = .next t ∧ t.ready = true) ∧
  (∀ (i : Instr) (s t : State), exec i s = .next t → s.ready = true → t.ready = true) ∧
  (∀ (i : Instr) (s : State), isRender i = true → s.ready = false → exec i s = .next s) ∧
  (∀ s : State, ∃ t, exec .isReady s = .next t ∧ t.responses = s.responses ++ [[if s.ready then 0x01 else 0x00]])

/-- R22 to R25: which command writes which register, for every command that answers a next state: READY only by BEGIN,
BRIGHTNESS only by BEGIN and SET_BRIGHTNESS, FORCE_UPPER only by SET_FORCE_UPPERCASE; each stores its operand as it is
(that there is no other access is the spec's decision D35). -/
def Obligations.RegistersChangeOnlyByTheirCommands : Prop :=
  ∀ (i : Instr) (s t : State), exec i s = .next t →
    t.ready = (match i with | .begin _ => true | _ => s.ready) ∧
    t.brightness = (match i with | .begin b => b | .setBrightness b => b | _ => s.brightness) ∧
    t.forceUpper = (match i with | .setForceUppercase u => u | _ => s.forceUpper)

/-- R77, R78 (the spec's decision D35): a query command adds exactly one response, any other command adds none. -/
def Obligations.QueriesRespondOnce : Prop :=
  ∀ (i : Instr) (s t : State), exec i s = .next t →
    (isQuery i = true → ∃ r, t.responses = s.responses ++ [r]) ∧
    (isQuery i = false → t.responses = s.responses)

/-- R184, R26, R50: only a render that takes effect emits (that nothing else does is the spec's decision D27,
notes/assumptions/7.md), one frame of 15N colours, and only it writes FB; it writes no entry outside 0 .. 15N-1. -/
def Obligations.OnlyRendersEmitAndWriteTheFramebuffer : Prop :=
  ∀ (i : Instr) (s t : State), exec i s = .next t →
    (isRender i = true ∧ s.ready = true →
      ∃ frame, t.emitted = s.emitted ++ [frame] ∧ frame.length = 15 * s.cfg.units) ∧
    (¬(isRender i = true ∧ s.ready = true) → t.emitted = s.emitted ∧ t.fb = s.fb) ∧
    ∀ k, 15 * s.cfg.units ≤ k → t.fb.get k = s.fb.get k

/-- R58: what a step adds to the two output logs and to the refusal mark comes after what they held: frames and
responses stand in the order of the commands, and a mark stays for the rest of the run (R243, the spec's decision D4).
-/
def Obligations.LogsAndMarkOnlyGrow : Prop :=
  ∀ s t : State, step s = .next t →
    s.emitted <+: t.emitted ∧ s.responses <+: t.responses ∧ s.refusals <+: t.refusals

/-! ### Control commands -/

/-- R220, R221 (that it always succeeds and may be repeated is the spec's decision D29): BEGIN writes BRIGHTNESS and
READY and nothing else, whatever READY was. -/
def Obligations.BeginWritesBrightnessAndReady : Prop :=
  ∀ (b : Byte) (s : State),
    decode [0x01, b] = .ok (.begin b) ∧ exec (.begin b) s = .next { s with brightness := b, ready := true }

/-- R222, R223: SET_BRIGHTNESS writes BRIGHTNESS and nothing else, whatever READY is: no frame, CACHE as it was (the
spec's decisions D27 and D30). -/
def Obligations.SetBrightnessWritesBrightness : Prop :=
  ∀ (b : Byte) (s : State),
    decode [0x02, b] = .ok (.setBrightness b) ∧ exec (.setBrightness b) s = .next { s with brightness := b }

/-- R224: SET_FORCE_UPPERCASE writes FORCE_UPPER and nothing else, whatever READY is; CACHE is not cleared (the spec's
decision D30). -/
def Obligations.SetForceUppercaseWritesForceUpper : Prop :=
  ∀ (u : Bool) (s : State),
    decode [0x03, if u then 0x01 else 0x00] = .ok (.setForceUppercase u) ∧
    exec (.setForceUppercase u) s = .next { s with forceUpper := u }

/-- R226: IS_READY responds 0x01 or 0x00 and writes no state. -/
def Obligations.IsReadyRespondsReady : Prop :=
  decode [0x04] = .ok .isReady ∧
  ∀ s : State, exec .isReady s =
    .next { s with responses := s.responses ++ [[if s.ready then 0x01 else 0x00]] }

/-! ### Glyph LUT -/

/-- R102: the lookup folds its byte, finds the character in the alphabet and reads the table the flag selects; a byte
whose fold is not in the alphabet is not found. The function reads its arguments and the tables alone. -/
def Obligations.LookupReadsTheSelectedTable : Prop :=
  ∀ (cfg : Config) (ch : Byte),
    (∀ k : Fin 32, alphabet[k.val]? = some (fold ch) →
      lookupFn cfg ch true = some (cfg.glyphUpper.get k) ∧ lookupFn cfg ch false = some (cfg.glyphDefault.get k)) ∧
    (fold ch ∉ alphabet → ∀ upper, lookupFn cfg ch upper = none)

/-- R101 and R109 (which the spec derives from R101 to R103): an ASCII upper-case letter is looked up as the letter
0x20 above it and no other byte is folded (the spec's decision D8); and only b, d, n, o and r, in either case, can
differ between the tables (the spec's decision D11). -/
def Obligations.LookupIgnoresCase : Prop :=
  ∀ (cfg : Config) (ch : Byte),
    (0x41 ≤ ch → ch ≤ 0x5A →
      fold ch = ch + 0x20 ∧ ∀ upper, lookupFn cfg ch upper = lookupFn cfg (ch + 0x20) upper) ∧
    (¬(0x41 ≤ ch ∧ ch ≤ 0x5A) → fold ch = ch) ∧
    (∀ upper, lookupFn cfg ch upper = lookupFn cfg (fold ch) upper) ∧
    (fold ch ∉ ([0x62, 0x64, 0x6E, 0x6F, 0x72] : List Byte) → lookupFn cfg ch false = lookupFn cfg ch true)

/-- R104: LOOKUP responds found and code and writes no state: FORCE_UPPER, READY and CACHE are neither read nor
written (the spec's decision D6). -/
def Obligations.LookupResponds : Prop :=
  ∀ (ch : Byte) (u : Bool) (s : State),
    decode [0x20, ch, if u then 0x01 else 0x00] = .ok (.lookup ch u) ∧
    exec (.lookup ch u) s = .next { s with responses := s.responses ++
      [match lookupFn s.cfg ch u with
        | some code => [0x01, code]
        | none => [0x00, 0x00]] }

/-- R106: ALPHABET_SIZE responds 32 and writes no state. -/
def Obligations.AlphabetSizeResponds : Prop :=
  decode [0x05] = .ok .alphabetSize ∧
  ∀ s : State, exec .alphabetSize s = .next { s with responses := s.responses ++ [[0x20]] }

/-- R100, R107, R108: GLYPH_AT responds the alphabet character of an index below 32, band by band the byte value of
R100 (the order is the spec's decision D9, notes/assumptions/7.md), and some byte for a greater index; it changes
nothing else but the model's own count of such bytes (the spec's decision D10, notes/assumptions/2.md). -/
def Obligations.GlyphAtResponds : Prop :=
  ∀ (index : Byte) (s : State),
    decode [0x06, index] = .ok (.glyphAt index) ∧
    (index < 32 → ∃ ch, alphabet[index.toNat]? = some ch ∧
      (index < 10 → ch = 0x30 + index) ∧
      (10 ≤ index → index < 20 → ch = 0x61 + (index - 10)) ∧
      (20 ≤ index → index < 30 →
        ([0x6C, 0x6E, 0x6F, 0x70, 0x71, 0x72, 0x73, 0x75, 0x78, 0x79] : List Byte)[index.toNat - 20]? = some ch) ∧
      (index = 30 → ch = 0x20) ∧ (index = 31 → ch = 0x2D) ∧
      exec (.glyphAt index) s = .next { s with responses := s.responses ++ [[ch]] }) ∧
    (32 ≤ index → ∃ ch,
      exec (.glyphAt index) s = .next { s with responses := s.responses ++ [[ch]], draws := s.draws + 1 })

/-! ### Colour arithmetic -/

/-- R120, R52: PACK responds its three operands and writes no state; the packed word has red in bits 23:16, green in
15:8 and blue in 7:0, with no carry between channels (the places of green and blue are the spec's decision D34). -/
def Obligations.PackRespondsItsChannels : Prop :=
  ∀ (r g b : Byte) (s : State),
    decode [0x21, r, g, b] = .ok (.pack r g b) ∧
    (pack r g b).toNat = r.toNat * 65536 + g.toNat * 256 + b.toNat ∧
    pack 0 0 0 = 0x000000 ∧ pack 255 255 255 = 0xFFFFFF ∧
    exec (.pack r g b) s = .next { s with responses := s.responses ++ [[r, g, b]] }

/-- R121, R122, R123: the UNPACK commands respond one channel each, cut out without rounding, and write no state (the
places of green and blue are the spec's decision D34). -/
def Obligations.UnpackRespondsOneChannel : Prop :=
  ∀ (b0 b1 b2 : Byte) (c : Color) (s : State), c.toNat = b0.toNat * 65536 + b1.toNat * 256 + b2.toNat →
    decode [0x22, b0, b1, b2] = .ok (.unpackRed c) ∧
    decode [0x23, b0, b1, b2] = .ok (.unpackGreen c) ∧
    decode [0x24, b0, b1, b2] = .ok (.unpackBlue c) ∧
    exec (.unpackRed c) s = .next { s with responses := s.responses ++ [[b0]] } ∧
    exec (.unpackGreen c) s = .next { s with responses := s.responses ++ [[b1]] } ∧
    exec (.unpackBlue c) s = .next { s with responses := s.responses ++ [[b2]] }

/-- R124 (which the spec derives from R120 to R123): packing and unpacking are inverse, both ways. -/
def Obligations.PackUnpackRoundTrip : Prop :=
  (∀ r g b : Byte, red (pack r g b) = r ∧ green (pack r g b) = g ∧ blue (pack r g b) = b) ∧
  ∀ c : Color, pack (red c) (green c) (blue c) = c

/-- R128, with R125 to R127 (parts of which the spec takes from general knowledge, G1 to G3): HSV_TO_RGB responds the
hexcone colour of its hue, each channel scaled by saturation and value, and writes no state. -/
def Obligations.HsvToRgbResponds : Prop :=
  ∀ (h0 h1 sat val : Byte) (hue : Hue) (s : State), hue.toNat = h0.toNat * 256 + h1.toNat →
    decode [0x25, h0, h1, sat, val] = .ok (.hsvToRgb hue sat val) ∧
    exec (.hsvToRgb hue sat val) s = .next { s with responses := s.responses ++
      [[sv (hexcone (hueIndex hue)).1 sat val, sv (hexcone (hueIndex hue)).2.1 sat val,
        sv (hexcone (hueIndex hue)).2.2 sat val]] }

/-- R125 to R127 (the expressions are the spec's general knowledge, G1 to G3): the hue index stays within 0..1530; in
each of the six slices one channel is 255, one is 0 and one ramps, and index 1530 is red again; and no channel is cut
off: the result of `sv` is the expression's exact value. -/
def Obligations.HsvStagesAreExact : Prop :=
  (∀ hue : Hue, hueIndex hue = (hue.toNat * 1530 + 32768) / 65536 ∧ hueIndex hue ≤ 1530) ∧
  (∀ i : Nat,
    (i < 255 → (hexcone i).1 = 255 ∧ (hexcone i).2.1.toNat = i ∧ (hexcone i).2.2 = 0) ∧
    (255 ≤ i → i < 510 → (hexcone i).1.toNat = 510 - i ∧ (hexcone i).2.1 = 255 ∧ (hexcone i).2.2 = 0) ∧
    (510 ≤ i → i < 765 → (hexcone i).1 = 0 ∧ (hexcone i).2.1 = 255 ∧ (hexcone i).2.2.toNat = i - 510) ∧
    (765 ≤ i → i < 1020 → (hexcone i).1 = 0 ∧ (hexcone i).2.1.toNat = 1020 - i ∧ (hexcone i).2.2 = 255) ∧
    (1020 ≤ i → i < 1275 → (hexcone i).1.toNat = i - 1020 ∧ (hexcone i).2.1 = 0 ∧ (hexcone i).2.2 = 255) ∧
    (1275 ≤ i → i < 1530 → (hexcone i).1 = 255 ∧ (hexcone i).2.1 = 0 ∧ (hexcone i).2.2.toNat = 1530 - i) ∧
    (i = 1530 → hexcone i = (255, 0, 0))) ∧
  ∀ c sat val : Byte,
    c.toNat * (sat.toNat + 1) / 256 + (255 - sat.toNat) ≤ 255 ∧
    (sv c sat val).toNat = (c.toNat * (sat.toNat + 1) / 256 + (255 - sat.toNat)) * (val.toNat + 1) / 256

/-- R128's corner cases and R129: red at hue 0 and at hue 65535; no value is black; no saturation is the grey ((val +
1) * 255) >> 8, whatever the hue, and white at full value. Red at hue 65535, the black and the grey rest on the spec's
general knowledge, G1 to G3 (notes/assumptions/13.md). -/
def Obligations.HsvCornerCases : Prop :=
  hsvToRgb 0 255 255 = 0xFF0000 ∧ hsvToRgb 65535 255 255 = 0xFF0000 ∧
  (∀ (hue : Hue) (sat : Byte), hsvToRgb hue sat 0 = 0x000000) ∧
  (∀ (hue : Hue) (val : Byte),
    (red (hsvToRgb hue 0 val)).toNat = (val.toNat + 1) * 255 / 256 ∧
    green (hsvToRgb hue 0 val) = red (hsvToRgb hue 0 val) ∧ blue (hsvToRgb hue 0 val) = red (hsvToRgb hue 0 val)) ∧
  ∀ hue : Hue, hsvToRgb hue 0 255 = 0xFFFFFF

/-- R130: GAMMA responds the entry of GAMMA_LUT and writes no state. -/
def Obligations.GammaResponds : Prop :=
  ∀ (x : Byte) (s : State),
    decode [0x26, x] = .ok (.gamma x) ∧
    exec (.gamma x) s = .next { s with responses := s.responses ++ [[s.cfg.gammaLut.get x.toFin]] }

/-- R131, R132 (the formulas are the spec's decision D23): WHEEL responds the three channels of the wheel colour and
writes no state; the channels are given band by band, with the exact breakpoints at 85 and 170. -/
def Obligations.WheelRespondsItsBandColour : Prop :=
  ∀ (pos : Byte) (s : State), ∃ r g b : Byte,
    decode [0x27, pos] = .ok (.wheel pos) ∧
    exec (.wheel pos) s = .next { s with responses := s.responses ++ [[r, g, b]] } ∧
    (pos.toNat < 85 → r.toNat = 255 - 3 * pos.toNat ∧ g = 0 ∧ b.toNat = 3 * pos.toNat) ∧
    (85 ≤ pos.toNat → pos.toNat < 170 →
      r = 0 ∧ g.toNat = 3 * (pos.toNat - 85) ∧ b.toNat = 255 - 3 * (pos.toNat - 85)) ∧
    (170 ≤ pos.toNat → r.toNat = 3 * (pos.toNat - 170) ∧ g.toNat = 255 - 3 * (pos.toNat - 170) ∧ b = 0)

/-- R133, R135 (the formula is the spec's decision D18): within 0 <= num <= den the blended channel is the exact
truncating interpolation, lies between its end points, and meets them at both ends. -/
def Obligations.BlendStaysBetweenItsEnds : Prop :=
  ∀ (a b : Byte) (num den : Nat), 0 < den → num ≤ den →
    ((blendCh a b num den).toNat : Int) =
      (a.toNat : Int) + Int.tdiv (((b.toNat : Int) - (a.toNat : Int)) * (num : Int)) (den : Int) ∧
    min a.toNat b.toNat ≤ (blendCh a b num den).toNat ∧ (blendCh a b num den).toNat ≤ max a.toNat b.toNat ∧
    blendCh a b 0 den = a ∧ blendCh a b den den = b ∧ blendCh a a num den = a

/-- R134: each channel is blended separately, with no carry between channels. -/
def Obligations.BlendIsPerChannel : Prop :=
  ∀ (a b : Color) (num den : Nat),
    red (blend a b num den) = blendCh (red a) (red b) num den ∧
    green (blend a b num den) = blendCh (green a) (green b) num den ∧
    blue (blend a b num den) = blendCh (blue a) (blue b) num den

/-- R136, R138: SCALE responds its channel scaled by its operand (not by BRIGHTNESS) and writes no state; the result
is c * br / 255 rounded to the nearest, with no tie (which the spec derives); and the corner cases. -/
def Obligations.ScaleRespondsTheRoundedQuotient : Prop :=
  ∀ (c br : Byte) (s : State),
    decode [0x28, c, br] = .ok (.scale c br) ∧
    exec (.scale c br) s = .next { s with responses := s.responses ++ [[scaleCh c br]] } ∧
    (scaleCh c br).toNat = (c.toNat * br.toNat + 127) / 255 ∧
    2 * (c.toNat * br.toNat) < 2 * 255 * (scaleCh c br).toNat + 255 ∧
    2 * 255 * (scaleCh c br).toNat < 2 * (c.toNat * br.toNat) + 255 ∧
    scaleCh c 255 = c ∧ scaleCh c 0 = 0 ∧ scaleCh 0 br = 0 ∧
    scaleCh 1 127 = 0 ∧ scaleCh 1 128 = 1 ∧ scaleCh 255 128 = 128

/-- R137: brightness is applied to each channel by itself. -/
def Obligations.ScaleColorIsPerChannel : Prop :=
  ∀ (c : Color) (br : Byte),
    red (scaleColor c br) = scaleCh (red c) br ∧ green (scaleColor c br) = scaleCh (green c) br ∧
    blue (scaleColor c br) = scaleCh (blue c) br

/-! ### Glyph cache -/

/-- R163, R164: in a legal state RESOLVE completes on every text: it responds the count K and the K codes, at most N
of them, writes CACHE alone, and the empty text gives no code (that it works whatever READY is, and the key of CACHE,
are the spec's decisions D31 and D16). -/
def Obligations.ResolveRespondsItsCodes : Prop :=
  ∀ (text : Text) (s : State), s.cacheCoherent →
    ∃ codes : List SegCode, codes = resolvePure s.cfg text s.forceUpper ∧ codes.length ≤ s.cfg.units ∧
      (text = [] → codes = []) ∧
      exec (.resolve text) s = .next { s with
        cache := { valid := true, text := text, upper := s.forceUpper, codes := codes },
        responses := s.responses ++ [BitVec.ofNat 8 codes.length :: codes] }

/-- R161 (with the spec's decision D14): a text without a dot gives one code per byte, the blank code for an
unsupported byte, and is cut at N codes. -/
def Obligations.DotlessTextGivesOneCodePerByte : Prop :=
  ∀ (cfg : Config) (text : Text) (upper : Bool), (0x2E : Byte) ∉ text →
    resolvePure cfg text upper = (text.take cfg.units).map fun ch => (lookupFn cfg ch upper).getD 0x00

/-- R161's loop, byte by byte: a dot merges into the code before it when that code has no decimal point yet, even at
capacity (the spec's decision D14) and even when it is the blank code of an unsupported byte (the spec's decision
D15); otherwise it is a unit of its own, blank but for the decimal point, where there is room for one. Any other byte
adds its code, blank when it is not found, where there is room for one; where there is none the loop stops. -/
def Obligations.DotMergesOrTakesItsOwnUnit : Prop :=
  ∀ (cfg : Config) (upper : Bool) (codes : List SegCode) (last : SegCode) (rest : Text),
    (last.getLsbD 7 = false →
      resolveFrom cfg upper (codes ++ [last]) (0x2E :: rest) = resolveFrom cfg upper (codes ++ [last ||| 0x80]) rest) ∧
    (last.getLsbD 7 = true → codes.length + 1 < cfg.units →
      resolveFrom cfg upper (codes ++ [last]) (0x2E :: rest) = resolveFrom cfg upper (codes ++ [last, 0x80]) rest) ∧
    (last.getLsbD 7 = true → codes.length + 1 = cfg.units →
      resolveFrom cfg upper (codes ++ [last]) (0x2E :: rest) = codes ++ [last]) ∧
    resolveFrom cfg upper [] (0x2E :: rest) = resolveFrom cfg upper [0x80] rest ∧
    (∀ ch : Byte, ch ≠ 0x2E → codes.length < cfg.units → resolveFrom cfg upper codes (ch :: rest) =
      resolveFrom cfg upper (codes ++ [(lookupFn cfg ch upper).getD 0x00]) rest) ∧
    ∀ ch : Byte, ch ≠ 0x2E → codes.length = cfg.units → resolveFrom cfg upper codes (ch :: rest) = codes

/-- R165 (which the spec derives from R161): "1.2" gives two codes, the first with its decimal point, and ".5" gives a
blank code with the decimal point and the code of 5, on every chain of two or more units and with either table. -/
def Obligations.DecimalPointExamples : Prop :=
  ∀ (cfg : Config) (upper : Bool) (one two five : SegCode), 2 ≤ cfg.units →
    lookupFn cfg 0x31 upper = some one → lookupFn cfg 0x32 upper = some two → lookupFn cfg 0x35 upper = some five →
      resolvePure cfg [0x31, 0x2E, 0x32] upper = [one ||| 0x80, two] ∧ two.getLsbD 7 = false ∧
      resolvePure cfg [0x2E, 0x35] upper = [0x80, five]

/-- R28, R162 (which the spec derives): from a coherent cache `resolve` returns the pure result and leaves the cache
coherent, and resolving the same text again changes nothing (the key of CACHE is the spec's decision D16). -/
def Obligations.ResolveIsAPureMemoization : Prop :=
  ∀ (text : Text) (s : State), s.cacheCoherent →
    resolveCodes text s = resolvePure s.cfg text s.forceUpper ∧ (resolveState text s).cacheCoherent ∧
    resolveState text (resolveState text s) = resolveState text s ∧
    resolveCodes text (resolveState text s) = resolveCodes text s

/-- R28 (which the spec derives): the cache cannot be observed. Two states that differ only in a coherent cache step
alike: the next states again differ in the cache alone, and both caches are coherent again. -/
def Obligations.CacheCannotBeObserved : Prop :=
  ∀ (s t : State) (c : Cache), s.cacheCoherent → State.cacheCoherent { s with cache := c } → step s = .next t →
    ∃ t', step { s with cache := c } = .next t' ∧ { t' with cache := t.cache } = t ∧
      t.cacheCoherent ∧ t'.cacheCoherent

/-- R224's corner case (with the spec's decision D11): only a text that holds b, d, n, o or r, in either case, can
resolve differently under the two tables; so FORCE_UPPER never changes a clock text's codes (R196). -/
def Obligations.OnlyVariantLettersDependOnForceUpper : Prop :=
  ∀ (cfg : Config),
    (∀ text : Text, (∀ ch ∈ text, fold ch ∉ ([0x62, 0x64, 0x6E, 0x6F, 0x72] : List Byte)) →
      resolvePure cfg text false = resolvePure cfg text true) ∧
    ∀ hours minutes : Byte, hours.toNat ≤ 99 → minutes.toNat ≤ 99 →
      resolvePure cfg (clockText cfg hours minutes) false = resolvePure cfg (clockText cfg hours minutes) true

/-! ### Frame composer -/

/-- R180, R181, R184 to R186: RENDER_SOLID, once READY is 1, for every text and colour (one frame for each render is
the spec's decision D27). -/
def Obligations.RenderSolidPaintsAndEmits : Prop :=
  ∀ (text : Text) (color : Color) (s : State), s.ready = true →
    ∃ t, exec (.renderSolid text color) s = .next t ∧ RenderEffect text (fun _ _ => color) s t

/-- R187, R188 (the fraction y/10 is the spec's decision D20): RENDER_VGRAD, once READY is 1. -/
def Obligations.RenderVGradPaintsAndEmits : Prop :=
  ∀ (text : Text) (a b : Color) (s : State), s.ready = true →
    ∃ t, exec (.renderVGrad text a b) s = .next t ∧
      RenderEffect text (fun _ p => blend a b (s.cfg.pixelXY.get p).2.val 10) s t

/-- R189, R190 (the unit offset 6u is the spec's decision D19): RENDER_HGRAD, once READY is 1. -/
def Obligations.RenderHGradPaintsAndEmits : Prop :=
  ∀ (text : Text) (a b : Color) (s : State), s.ready = true →
    ∃ t, exec (.renderHGrad text a b) s = .next t ∧
      RenderEffect text (fun u p => blend a b ((s.cfg.pixelXY.get p).1.val + 6 * u) (6 * s.cfg.units)) s t

/-- R191, R192 (the step 9 is the spec's decision D24): RENDER_CYCLE, once READY is 1. -/
def Obligations.RenderCyclePaintsAndEmits : Prop :=
  ∀ (text : Text) (offset : Byte) (s : State), s.ready = true →
    ∃ t, exec (.renderCycle text offset) s = .next t ∧
      RenderEffect text (fun _ p => wheel (BitVec.ofNat 8 ((offset.toNat + 9 * p.val) % 256))) s t

/-- R193 to R196 (with the spec's decisions D25, D26): RENDER_CLOCK with fields in range, once READY is 1: the text is
the two zero-padded fields, left-padded with spaces to the chain's length; from unit max(N,4) - 2 on the minute
colour, dimmed on odd seconds, elsewhere the hour colour. The dimmed colour has each channel halved, rounding down. -/
def Obligations.RenderClockPaintsAndEmits : Prop :=
  (∀ c : Color, red (dim c) = red c >>> 1 ∧ green (dim c) = green c >>> 1 ∧ blue (dim c) = blue c >>> 1) ∧
  ∀ (h m sec : Byte) (ch cm : Color) (s : State), s.ready = true → h.toNat ≤ 99 → m.toNat ≤ 99 →
    ∃ t, exec (.renderClock h m sec ch cm) s = .next t ∧
      RenderEffect (List.replicate (s.cfg.units - 4) 0x20 ++
          [BitVec.ofNat 8 (0x30 + h.toNat / 10), BitVec.ofNat 8 (0x30 + h.toNat % 10),
           BitVec.ofNat 8 (0x30 + m.toNat / 10), BitVec.ofNat 8 (0x30 + m.toNat % 10)])
        (fun u _ => if max s.cfg.units 4 - 2 ≤ u then (if sec.toNat % 2 = 1 then dim cm else cm) else ch) s t

/-- R194 (the spec's decision D25): RENDER_CLOCK with hours or minutes above 99 is refused whatever READY holds: the
mark alone changes (that it is a next state is the model's choice, notes/assumptions/3.md). -/
def Obligations.ClockOutOfRangeIsRefused : Prop :=
  ∀ (h m sec : Byte) (ch cm : Color) (s : State), 99 < h.toNat ∨ 99 < m.toNat →
    exec (.renderClock h m sec ch cm) s = .next { s with refusals := s.refusals ++ [.clockFieldRange] }

/-- R189 (which the spec derives): on a channel where the two colours differ, no LED of a horizontal gradient reaches
the second colour; while the leftmost column has the first colour exactly (R190). -/
def Obligations.HorizontalGradientNeverReachesItsEnd : Prop :=
  ∀ (cfg : Config) (a b : Byte) (u : Nat) (p : Led), u < cfg.units →
    (a ≠ b → blendCh a b ((cfg.pixelXY.get p).1.val + 6 * u) (6 * cfg.units) ≠ b) ∧
    blendCh a b (0 + 6 * 0) (6 * cfg.units) = a

/-- R198, R55 (which the spec derives): in a legal state with READY 1, the same render twice in a row leaves the same
FB and CACHE and emits the same frame twice. -/
def Obligations.RenderingTwiceIsIdempotent : Prop :=
  ∀ (i : Instr) (s t : State), isRender i = true → s.ready = true → s.Inv → exec i s = .next t →
    ∃ frame t', t.emitted = s.emitted ++ [frame] ∧ exec i t = .next t' ∧
      t' = { t with emitted := t.emitted ++ [frame] }

/-- R197 (which the spec derives): on a legal chain of 4 units, "TOOLONG" lights LEDs of units 0 to 3 at most, unit 0
not at all, and unit 1 as the code of o says. -/
def Obligations.TooLongTextIsClamped : Prop :=
  ∀ (color : Color) (s t : State) (o l : SegCode), s.ready = true → s.Inv → s.cfg.units = 4 →
    lookupFn s.cfg 0x6F s.forceUpper = some o → lookupFn s.cfg 0x6C s.forceUpper = some l →
    exec (.renderSolid [0x54, 0x4F, 0x4F, 0x4C, 0x4F, 0x4E, 0x47] color) s = .next t →
      t.cache.codes = [0x00, o, o, l] ∧ (∀ p : Led, t.fb.get p.val = 0x000000) ∧
      (∀ k : Fin 8, ∀ p ∈ s.cfg.segMap.get k,
        t.fb.get (15 + p.val) = if o.getLsbD k.val then color else 0x000000) ∧
      ∀ i, 60 ≤ i → t.fb.get i = 0x000000

/-- R184, R222's corner cases and R138: at brightness 255 a render emits FB as it is, at brightness 0 it emits black
everywhere; FB keeps the unscaled colours, the same ones at every brightness. -/
def Obligations.BrightnessScalesTheFrameOnly : Prop :=
  ∀ (i : Instr) (s t : State) (br : Byte), isRender i = true → s.ready = true → exec i s = .next t →
    (s.brightness = 255 → t.emitted = s.emitted ++ [(List.range (15 * s.cfg.units)).map fun k => t.fb.get k]) ∧
    (s.brightness = 0 → t.emitted = s.emitted ++ [List.replicate (15 * s.cfg.units) 0x000000]) ∧
    ∃ t', exec i { s with brightness := br } = .next t' ∧ t'.fb = t.fb ∧ t'.cache = t.cache
end

