-- ==== Sys2Proof/Laws/Assembler.lean ====
section
/-! SUPPORT. The textual syntax read back: each operand that the disassembler writes is read as its frame bytes, and
what follows it is left over. -/

namespace Sys2Proof.Machine

theorem hexDigit_writeHexDigit_fin : ∀ d : Fin 16, hexDigit (writeHexDigit d.val) = some d.val := by decide

@[simp] theorem hexDigit_writeHexDigit (n : Nat) : hexDigit (writeHexDigit (n % 16)) = some (n % 16) :=
  hexDigit_writeHexDigit_fin ⟨n % 16, Nat.mod_lt n (by decide)⟩

/-- The last digit can be read last. -/
theorem readHex_succ (n acc : Nat) (line : ByteString) :
    readHex (n + 1) acc line = (readHex n acc line).bind fun x => readHex 1 x.1 x.2 := by
  induction n generalizing acc line with
  | zero => rfl
  | succ n ih =>
    cases line with
    | nil => rfl
    | cons b rest =>
      rw [readHex]
      conv_rhs => rw [readHex]
      cases hexDigit b with
      | none => rfl
      | some d => exact ih _ _

theorem readHex_writeHex (n v acc : Nat) (rest : ByteString) (h : v < 16 ^ n) :
    readHex n acc (writeHex n v ++ rest) = some (acc * 16 ^ n + v, rest) := by
  induction n generalizing v rest with
  | zero => simpa [readHex, writeHex] using h
  | succ n ih =>
    rw [readHex_succ, writeHex, List.append_assoc, ih _ _ (by rw [pow_succ] at h; omega)]
    simp only [Option.bind_some, List.cons_append, List.nil_append, readHex, hexDigit_writeHexDigit]
    rw [pow_succ]
    congr 2
    have := Nat.div_add_mod v 16
    rw [Nat.add_mul, Nat.mul_assoc]; omega

/-- A hex number ends before this: nothing follows, or a byte that is no hex digit. -/
def endsNumber (rest : ByteString) : Prop := ∀ b ∈ rest.head?, hexDigit b = none

theorem endsNumber_nil : endsNumber [] := by simp [endsNumber]

theorem endsNumber_comma (rest : ByteString) : endsNumber (0x2C :: rest) := by simp [endsNumber]; decide

theorem readDigits_end (v : Nat) {rest : ByteString} (h : endsNumber rest) :
    readDigits hexDigit 16 v rest = (v, rest) := by
  cases rest with
  | nil => rfl
  | cons b r => simp [readDigits, h b (by simp)]

theorem readNumber_writeU8 (b : Byte) {rest : ByteString} (h : endsNumber rest) :
    readNumber (writeU8 b ++ rest) = some (b.toNat, rest) := by
  have := b.isLt
  simp only [writeU8, writeHex, List.cons_append, List.nil_append, readNumber, readNumeral, hexDigit_writeHexDigit,
    readDigits, readDigits_end _ h, Option.map_some, if_true, and_self]
  congr 2; omega

theorem readNumber_writeU16 (v : Hue) {rest : ByteString} (h : endsNumber rest) :
    readNumber (writeU16 v ++ rest) = some (v.toNat, rest) := by
  have := v.isLt
  simp only [writeU16, writeHex, List.cons_append, List.nil_append, readNumber, readNumeral, hexDigit_writeHexDigit,
    readDigits, readDigits_end _ h, Option.map_some, if_true, and_self]
  congr 2; omega

theorem readQuoted_writeChar (b : Byte) (line : ByteString) :
    readQuoted (writeChar b ++ line) = (readQuoted line).map fun x => (b :: x.1, x.2) := by
  have hb := b.isLt
  unfold writeChar
  split
  · rename_i h
    simp only [List.cons_append, List.nil_append]
    rw [readQuoted.eq_def]
    rcases h with rfl | rfl <;> simp
  · rename_i h
    split
    · rename_i h2
      have : b < 0x80 := by
        have := BitVec.le_def.1 h2.2
        rw [BitVec.lt_def]; simp at *; omega
      rw [not_or] at h
      simp only [List.cons_append, List.nil_append]
      rw [readQuoted.eq_def]
      simp only [h.1, h.2, if_false, this, if_true]
    · simp only [writeHex, List.cons_append, List.nil_append]
      rw [readQuoted]
      simp only [hexDigit_writeHexDigit, Option.bind_some]
      have : BitVec.ofNat 8 (b.toNat / 16 % 16 * 16 + b.toNat % 16) = b := by
        apply BitVec.eq_of_toNat_eq; simp; omega
      simp [this]

theorem readQuoted_flatMap (t : Text) (rest : ByteString) :
    readQuoted (t.flatMap writeChar ++ 0x22 :: rest) = some (t, rest) := by
  induction t with
  | nil => rw [List.flatMap_nil, List.nil_append, readQuoted.eq_def]; simp
  | cons b t ih => rw [List.flatMap_cons, List.append_assoc, readQuoted_writeChar, ih]; rfl

theorem readOperand_writeU8 (b : Byte) {rest : ByteString} (h : endsNumber rest) :
    readOperand .u8 (writeU8 b ++ rest) = some ([b], rest) := by
  have := b.isLt
  rw [readOperand, readNumber_writeU8 b h]; simp [this]

theorem readOperand_writeU16 (v : Hue) {rest : ByteString} (h : endsNumber rest) :
    readOperand .u16 (writeU16 v ++ rest) = some (encodeU16 v, rest) := by
  have := v.isLt
  rw [readOperand, readNumber_writeU16 v h]; simp [this]

theorem readOperand_writeBool (b : Bool) (rest : ByteString) :
    readOperand .bool (writeBool b ++ rest) = some (encodeBool b, rest) := by
  cases b <;> rfl

theorem readOperand_writeColor (c : Color) (rest : ByteString) :
    readOperand .color (writeColor c ++ rest) = some (encodeColor c, rest) := by
  have := c.isLt
  rw [writeColor, List.cons_append, readOperand, readHex_writeHex _ _ _ _ (by simpa using this)]; simp

theorem readOperand_writeText (t : Text) (rest : ByteString) (h : textFits t = true) :
    readOperand .text (writeText t ++ rest) = some (encodeText t, rest) := by
  rw [writeText, List.cons_append, readOperand, if_pos rfl, List.append_assoc]
  simp only [List.cons_append, List.nil_append]
  rw [readQuoted_flatMap]; simp [h]

/-- The last operand of a line. -/
theorem readOperands_last (ty : OperandType) (w bs : ByteString) (h : readOperand ty (w ++ []) = some (bs, [])) :
    readOperands [ty] w = some bs := by
  rw [List.append_nil] at h
  simp [readOperands, h]

/-- An operand that another one follows. -/
theorem readOperands_more (ty ty' : OperandType) (tys : List OperandType) (w bs more line : ByteString)
    (h : ∀ r, readOperand ty (w ++ 0x2C :: r) = some (bs, 0x2C :: r))
    (h2 : readOperands (ty' :: tys) line = some more) :
    readOperands (ty :: ty' :: tys) (w ++ 0x2C :: 0x20 :: line) = some (bs ++ more) := by
  rw [readOperands, h]
  simp [h2]

end Sys2Proof.Machine
end

