-- ==== Sys2Proof/Laws/Decode.lean ====
section
/-! SUPPORT. Reading an operand back from its encoding, and what the operand readers answer when they answer. -/

namespace Sys2Proof

@[simp] theorem takeU8_cons (b : Byte) (rest : ByteString) : takeU8 (b :: rest) = some (b, rest) := rfl

@[simp] theorem takeBool_encode (b : Bool) (rest : ByteString) : takeBool (encodeBool b ++ rest) = some (b, rest) := by
  cases b <;> rfl

theorem hueOfBytes_encode (h : Hue) : hueOfBytes ((h >>> 8).setWidth 8) (h.setWidth 8) = h := by
  apply BitVec.eq_of_getLsbD_eq
  intro i hi
  simp only [hueOfBytes, BitVec.zeroExtend, BitVec.getLsbD_or, BitVec.getLsbD_shiftLeft, BitVec.getLsbD_setWidth,
    BitVec.getLsbD_ushiftRight]
  by_cases h8 : i < 8
  · simp [h8, hi]
  · have h3 : 8 + (i - 8) = i := by omega
    simp only [h8, hi, decide_true, decide_false, Bool.true_and, Bool.not_false, Bool.false_and, Bool.or_false, h3]
    have h4 : i - 8 < 8 := by omega
    have h5 : i - 8 < 16 := by omega
    simp [h4, h5]

theorem colorOfBytes_encode (c : Color) :
    colorOfBytes ((c >>> 16).setWidth 8) ((c >>> 8).setWidth 8) (c.setWidth 8) = c := by
  apply BitVec.eq_of_getLsbD_eq
  intro i hi
  simp only [colorOfBytes, BitVec.zeroExtend, BitVec.getLsbD_or, BitVec.getLsbD_shiftLeft, BitVec.getLsbD_setWidth,
    BitVec.getLsbD_ushiftRight]
  by_cases h8 : i < 8
  · have : i < 16 := by omega
    simp [h8, hi, this]
  · by_cases h16 : i < 16
    · have h3 : 8 + (i - 8) = i := by omega
      have h4 : i - 8 < 8 := by omega
      have h5 : i - 8 < 24 := by omega
      simp [h8, hi, h16, h3, h4, h5]
    · have h3 : 16 + (i - 16) = i := by omega
      have h4 : i - 16 < 8 := by omega
      have h5 : i - 16 < 24 := by omega
      have h6 : ¬ i - 8 < 8 := by omega
      simp [h8, hi, h16, h3, h4, h5, h6]

@[simp] theorem takeU16_encode (h : Hue) (rest : ByteString) : takeU16 (encodeU16 h ++ rest) = some (h, rest) := by
  simp [encodeU16, takeU16, hueOfBytes_encode]

@[simp] theorem takeColor_encode (c : Color) (rest : ByteString) :
    takeColor (encodeColor c ++ rest) = some (c, rest) := by
  simp [encodeColor, takeColor, colorOfBytes_encode]

/-- A text of at most 255 bytes is read back from its length byte and its bytes (R72). -/
theorem takeText_encode {t : Text} (h : textFits t = true) (rest : ByteString) :
    takeText (encodeText t ++ rest) = some (t, rest) := by
  have hl : t.length ≤ 255 := by simpa [textFits] using h
  have hm : t.length % 256 = t.length := Nat.mod_eq_of_lt (by omega)
  simp [encodeText, takeText, hm]

end Sys2Proof
end

