-- ==== Sys2Proof/Laws/Memory.lean ====
section
/-! SUPPORT. The laws of the framebuffer: read after write, the frame of a write, the canonical form, and what a list of
writes or reads answers. -/

namespace Sys2Proof.Machine

variable {size i j : Nat} {v : Color} {m m' : Memory} {cfg : Config}

/-! ### Reading after writing -/

theorem get_insert_same (i : Nat) (v : Color) (m : Memory) (h : ∀ e ∈ m, e.1 ≠ i) :
    (Memory.insert i v m).get i = v := by
  induction m with
  | nil => simp [Memory.insert, Memory.get]
  | cons e rest ih =>
    obtain ⟨j, w⟩ := e
    have hj : i ≠ j := fun hij => h (j, w) (by simp) hij.symm
    simp only [Memory.insert]
    split
    · simp [Memory.get]
    · simp only [Memory.get, if_neg hj]
      exact ih fun e he => h e (by simp [he])

theorem get_insert_other (i : Nat) (v : Color) (m : Memory) (h : j ≠ i) :
    (Memory.insert i v m).get j = m.get j := by
  induction m with
  | nil => simp [Memory.insert, Memory.get, h]
  | cons e rest ih =>
    obtain ⟨k, w⟩ := e
    simp only [Memory.insert]
    split
    · simp [Memory.get, h]
    · simp only [Memory.get, ih]

theorem get_filter_same (i : Nat) (m : Memory) : Memory.get (m.filter fun e => e.1 ≠ i) i = Memory.blank := by
  induction m with
  | nil => rfl
  | cons e rest ih =>
    obtain ⟨k, w⟩ := e
    by_cases hk : k = i
    · simpa [List.filter_cons, hk] using ih
    · have : i ≠ k := fun h => hk h.symm
      simpa [List.filter_cons, hk, Memory.get, this] using ih

theorem get_filter_other (i : Nat) (m : Memory) (h : j ≠ i) :
    Memory.get (m.filter fun e => e.1 ≠ i) j = m.get j := by
  induction m with
  | nil => rfl
  | cons e rest ih =>
    obtain ⟨k, w⟩ := e
    by_cases hk : k = i
    · have : j ≠ k := fun h' => h (h'.trans hk)
      simpa [List.filter_cons, hk, Memory.get, h] using ih
    · by_cases hj : j = k
      · simp [hk, Memory.get, hj]
      · simpa [List.filter_cons, hk, Memory.get, hj] using ih

/-- Reading an entry after writing it gives the colour written. -/
@[simp] theorem get_set_same (i : Nat) (v : Color) (m : Memory) : (m.set i v).get i = v := by
  unfold Memory.set
  by_cases hv : v = Memory.blank
  · simp only [hv, if_true]; exact get_filter_same i m
  · simp only [hv, if_false]
    exact get_insert_same i v _ fun e he => by simpa using (List.mem_filter.1 he).2

/-- A write leaves every other entry as it was. -/
@[simp] theorem get_set_other (i : Nat) (v : Color) (m : Memory) (h : j ≠ i) : (m.set i v).get j = m.get j := by
  unfold Memory.set
  by_cases hv : v = Memory.blank
  · simp only [hv, if_true]; exact get_filter_other i m h
  · simp only [hv, if_false]
    rw [get_insert_other i v _ h]; exact get_filter_other i m h

/-! ### The canonical form -/

theorem mem_insert {e : Nat × Color} (i : Nat) (v : Color) (m : Memory) :
    e ∈ Memory.insert i v m ↔ e = (i, v) ∨ e ∈ m := by
  induction m with
  | nil => simp [Memory.insert]
  | cons a rest ih =>
    obtain ⟨j, w⟩ := a
    simp only [Memory.insert]
    split
    · simp
    · simp only [List.mem_cons, ih]; tauto

theorem pairwise_insert (i : Nat) (v : Color) (m : Memory) (h : m.Pairwise fun a b => a.1 < b.1)
    (hi : ∀ e ∈ m, e.1 ≠ i) : (Memory.insert i v m).Pairwise fun a b => a.1 < b.1 := by
  induction m with
  | nil => simp [Memory.insert]
  | cons a rest ih =>
    obtain ⟨j, w⟩ := a
    have hj : j ≠ i := hi (j, w) (by simp)
    have ⟨h1, h2⟩ := List.pairwise_cons.1 h
    simp only [Memory.insert]
    split
    · rename_i hlt
      refine List.pairwise_cons.2 ⟨fun e he => ?_, h⟩
      rcases List.mem_cons.1 he with rfl | he
      · exact hlt
      · exact Nat.lt_trans hlt (h1 e he)
    · refine List.pairwise_cons.2 ⟨fun e he => ?_, ih h2 fun e he => hi e (by simp [he])⟩
      rcases (mem_insert i v rest).1 he with rfl | he
      · simp only; omega
      · exact h1 e he

/-- A write inside the framebuffer keeps the canonical form. -/
theorem set_wf (h : Memory.wf size m) (hi : i < size) (v : Color) : Memory.wf size (m.set i v) := by
  have hf : Memory.wf size (m.filter fun e => e.1 ≠ i) :=
    ⟨h.1.sublist List.filter_sublist, fun e he => h.2 e (List.mem_filter.1 he).1⟩
  unfold Memory.set
  by_cases hv : v = Memory.blank
  · simpa [hv] using hf
  · simp only [hv, if_false]
    refine ⟨pairwise_insert i v _ hf.1 fun e he => by simpa using (List.mem_filter.1 he).2, fun e he => ?_⟩
    rcases (mem_insert i v _).1 he with rfl | he
    · exact ⟨hi, hv⟩
    · exact hf.2 e he

/-- The reset framebuffer has the canonical form. -/
theorem nil_wf : Memory.wf size [] := ⟨List.Pairwise.nil, by simp⟩

theorem get_of_mem {e : Nat × Color} (h : Memory.wf size m) (he : e ∈ m) : m.get e.1 = e.2 := by
  induction m with
  | nil => cases he
  | cons a rest ih =>
    obtain ⟨j, w⟩ := a
    have ⟨h1, h2⟩ := List.pairwise_cons.1 h.1
    rcases List.mem_cons.1 he with rfl | he
    · simp [Memory.get]
    · have : e.1 ≠ j := Nat.ne_of_gt (h1 e he)
      simpa [Memory.get, this] using ih ⟨h2, fun e he => h.2 e (by simp [he])⟩ he

theorem mem_of_get (h : m.get i ≠ Memory.blank) : (i, m.get i) ∈ m := by
  induction m with
  | nil => exact absurd rfl h
  | cons a rest ih =>
    obtain ⟨j, w⟩ := a
    by_cases hi : i = j
    · simp [Memory.get, hi]
    · simp only [Memory.get, if_neg hi] at h ⊢
      exact List.mem_cons_of_mem _ (ih h)

/-- Two memories in the canonical form that read alike are equal data. -/
theorem memory_ext (h : Memory.wf size m) (h' : Memory.wf size m') (hg : ∀ i, m.get i = m'.get i) : m = m' := by
  have mem_iff : ∀ e, e ∈ m ↔ e ∈ m' := by
    intro e
    constructor
    · intro he
      have hb := (h.2 e he).2
      have := get_of_mem h he
      have h2 := mem_of_get (m := m') (i := e.1) (by rw [← hg, this]; exact hb)
      rw [← hg, this] at h2; exact h2
    · intro he
      have hb := (h'.2 e he).2
      have := get_of_mem h' he
      have h2 := mem_of_get (m := m) (i := e.1) (by rw [hg, this]; exact hb)
      rw [hg, this] at h2; exact h2
  have nd : ∀ {n : Memory}, (n.Pairwise fun a b => a.1 < b.1) → n.Nodup := by
    intro n hp
    refine List.Pairwise.imp ?_ hp
    rintro a b hab rfl
    exact Nat.lt_irrefl _ hab
  exact List.Perm.eq_of_pairwise
    (fun a b _ _ hab hba => absurd (Nat.lt_trans hab hba) (Nat.lt_irrefl _))
    h.1 h'.1 ((List.perm_ext_iff_of_nodup (nd h.1) (nd h'.1)).2 mem_iff)

/-! ### Lists of writes and reads -/

/-- What a list of writes leaves, one after the other. -/
def setAll (m : Memory) (writes : List (Nat × Color)) : Memory := writes.foldl (fun m e => m.set e.1 e.2) m

/-- A list of writes inside the framebuffer is done; it never faults. -/
theorem memWriteAll_ok (writes : List (Nat × Color)) (m : Memory) (h : ∀ e ∈ writes, e.1 < ledCount cfg) :
    memWriteAll cfg m writes = .ok (setAll m writes) := by
  induction writes generalizing m with
  | nil => rfl
  | cons e rest ih =>
    have he : e.1 < ledCount cfg := h e (by simp)
    simp only [memWriteAll, memWrite, he, if_true, setAll, List.foldl_cons]
    exact ih _ fun e' h' => h e' (by simp [h'])

/-- A list of reads inside the framebuffer answers each entry; it never faults. -/
theorem memReadAll_ok (m : Memory) (is : List Nat) (h : ∀ i ∈ is, i < ledCount cfg) :
    memReadAll cfg m is = .ok (is.map m.get) := by
  induction is with
  | nil => rfl
  | cons i rest ih =>
    have hi : i < ledCount cfg := h i (by simp)
    simp only [memReadAll, memRead, hi, if_true, ih fun j hj => h j (by simp [hj]), List.map_cons]

theorem setAll_wf (writes : List (Nat × Color)) (h : Memory.wf size m) (hw : ∀ e ∈ writes, e.1 < size) :
    Memory.wf size (setAll m writes) := by
  induction writes generalizing m with
  | nil => exact h
  | cons e rest ih =>
    exact ih (set_wf h (hw e (by simp)) e.2) fun e' h' => hw e' (by simp [h'])

/-- An entry that no write names reads as before. -/
theorem get_setAll_other (writes : List (Nat × Color)) (m : Memory) (h : ∀ e ∈ writes, e.1 ≠ i) :
    (setAll m writes).get i = m.get i := by
  induction writes generalizing m with
  | nil => rfl
  | cons e rest ih =>
    have : i ≠ e.1 := fun he => h e (by simp) he.symm
    exact (ih _ fun e' h' => h e' (by simp [h'])).trans (get_set_other _ _ _ this)

/-- An entry that some write names, and that every write naming it gives the colour `v`, reads as `v`. -/
theorem get_setAll_of_mem (writes : List (Nat × Color)) (m : Memory) (h : (i, v) ∈ writes)
    (hv : ∀ e ∈ writes, e.1 = i → e.2 = v) : (setAll m writes).get i = v := by
  induction writes generalizing m with
  | nil => cases h
  | cons e rest ih =>
    by_cases hin : (i, v) ∈ rest
    · exact ih _ hin fun e' h' => hv e' (by simp [h'])
    · have heq : (i, v) = e := by simpa [hin] using h
      subst heq
      refine (get_setAll_other rest _ fun e' h' he => hin ?_).trans (get_set_same _ _ _)
      have : e' = (i, v) := Prod.ext he (hv e' (by simp [h']) he)
      exact this ▸ h'

theorem setAll_append (m : Memory) (a b : List (Nat × Color)) : setAll m (a ++ b) = setAll (setAll m a) b :=
  List.foldl_append

end Sys2Proof.Machine
end

