-- ==== Sys2Proof/Laws/State.lean ====
section
/-! SUPPORT. One lemma per field per update of State, true by rfl, so that no proof unfolds a record update. -/

namespace Sys2Proof.Machine

@[simp] theorem respond_cfg (bytes : ByteString) (s : State) : (respond bytes s).cfg = s.cfg := rfl
@[simp] theorem respond_ready (bytes : ByteString) (s : State) : (respond bytes s).ready = s.ready := rfl
@[simp] theorem respond_brightness (bytes : ByteString) (s : State) :
    (respond bytes s).brightness = s.brightness := rfl
@[simp] theorem respond_forceUpper (bytes : ByteString) (s : State) :
    (respond bytes s).forceUpper = s.forceUpper := rfl
@[simp] theorem respond_fb (bytes : ByteString) (s : State) : (respond bytes s).fb = s.fb := rfl
@[simp] theorem respond_cache (bytes : ByteString) (s : State) : (respond bytes s).cache = s.cache := rfl
@[simp] theorem respond_emitted (bytes : ByteString) (s : State) : (respond bytes s).emitted = s.emitted := rfl
@[simp] theorem respond_responses (bytes : ByteString) (s : State) :
    (respond bytes s).responses = s.responses ++ [bytes] := rfl
@[simp] theorem respond_refusals (bytes : ByteString) (s : State) : (respond bytes s).refusals = s.refusals := rfl
@[simp] theorem respond_draws (bytes : ByteString) (s : State) : (respond bytes s).draws = s.draws := rfl
@[simp] theorem respond_pending (bytes : ByteString) (s : State) : (respond bytes s).pending = s.pending := rfl

@[simp] theorem emit_cfg (frame : LedFrame) (s : State) : (emit frame s).cfg = s.cfg := rfl
@[simp] theorem emit_ready (frame : LedFrame) (s : State) : (emit frame s).ready = s.ready := rfl
@[simp] theorem emit_brightness (frame : LedFrame) (s : State) : (emit frame s).brightness = s.brightness := rfl
@[simp] theorem emit_forceUpper (frame : LedFrame) (s : State) : (emit frame s).forceUpper = s.forceUpper := rfl
@[simp] theorem emit_fb (frame : LedFrame) (s : State) : (emit frame s).fb = s.fb := rfl
@[simp] theorem emit_cache (frame : LedFrame) (s : State) : (emit frame s).cache = s.cache := rfl
@[simp] theorem emit_emitted (frame : LedFrame) (s : State) : (emit frame s).emitted = s.emitted ++ [frame] := rfl
@[simp] theorem emit_responses (frame : LedFrame) (s : State) : (emit frame s).responses = s.responses := rfl
@[simp] theorem emit_refusals (frame : LedFrame) (s : State) : (emit frame s).refusals = s.refusals := rfl
@[simp] theorem emit_draws (frame : LedFrame) (s : State) : (emit frame s).draws = s.draws := rfl
@[simp] theorem emit_pending (frame : LedFrame) (s : State) : (emit frame s).pending = s.pending := rfl

@[simp] theorem refuse_cfg (r : PortRefusal) (s : State) : (refuse r s).cfg = s.cfg := rfl
@[simp] theorem refuse_ready (r : PortRefusal) (s : State) : (refuse r s).ready = s.ready := rfl
@[simp] theorem refuse_brightness (r : PortRefusal) (s : State) : (refuse r s).brightness = s.brightness := rfl
@[simp] theorem refuse_forceUpper (r : PortRefusal) (s : State) : (refuse r s).forceUpper = s.forceUpper := rfl
@[simp] theorem refuse_fb (r : PortRefusal) (s : State) : (refuse r s).fb = s.fb := rfl
@[simp] theorem refuse_cache (r : PortRefusal) (s : State) : (refuse r s).cache = s.cache := rfl
@[simp] theorem refuse_emitted (r : PortRefusal) (s : State) : (refuse r s).emitted = s.emitted := rfl
@[simp] theorem refuse_responses (r : PortRefusal) (s : State) : (refuse r s).responses = s.responses := rfl
@[simp] theorem refuse_refusals (r : PortRefusal) (s : State) : (refuse r s).refusals = s.refusals ++ [r] := rfl
@[simp] theorem refuse_draws (r : PortRefusal) (s : State) : (refuse r s).draws = s.draws := rfl
@[simp] theorem refuse_pending (r : PortRefusal) (s : State) : (refuse r s).pending = s.pending := rfl

@[simp] theorem takeCommand_cfg (rest : List Issued) (s : State) : (takeCommand rest s).cfg = s.cfg := rfl
@[simp] theorem takeCommand_ready (rest : List Issued) (s : State) : (takeCommand rest s).ready = s.ready := rfl
@[simp] theorem takeCommand_brightness (rest : List Issued) (s : State) :
    (takeCommand rest s).brightness = s.brightness := rfl
@[simp] theorem takeCommand_forceUpper (rest : List Issued) (s : State) :
    (takeCommand rest s).forceUpper = s.forceUpper := rfl
@[simp] theorem takeCommand_fb (rest : List Issued) (s : State) : (takeCommand rest s).fb = s.fb := rfl
@[simp] theorem takeCommand_cache (rest : List Issued) (s : State) : (takeCommand rest s).cache = s.cache := rfl
@[simp] theorem takeCommand_emitted (rest : List Issued) (s : State) : (takeCommand rest s).emitted = s.emitted := rfl
@[simp] theorem takeCommand_responses (rest : List Issued) (s : State) :
    (takeCommand rest s).responses = s.responses := rfl
@[simp] theorem takeCommand_refusals (rest : List Issued) (s : State) :
    (takeCommand rest s).refusals = s.refusals := rfl
@[simp] theorem takeCommand_draws (rest : List Issued) (s : State) : (takeCommand rest s).draws = s.draws := rfl
@[simp] theorem takeCommand_pending (rest : List Issued) (s : State) : (takeCommand rest s).pending = rest := rfl

@[simp] theorem issueNext_cfg (frame : ByteString) (s : State) : (issueNext frame s).cfg = s.cfg := rfl
@[simp] theorem issueNext_ready (frame : ByteString) (s : State) : (issueNext frame s).ready = s.ready := rfl
@[simp] theorem issueNext_brightness (frame : ByteString) (s : State) :
    (issueNext frame s).brightness = s.brightness := rfl
@[simp] theorem issueNext_forceUpper (frame : ByteString) (s : State) :
    (issueNext frame s).forceUpper = s.forceUpper := rfl
@[simp] theorem issueNext_fb (frame : ByteString) (s : State) : (issueNext frame s).fb = s.fb := rfl
@[simp] theorem issueNext_cache (frame : ByteString) (s : State) : (issueNext frame s).cache = s.cache := rfl
@[simp] theorem issueNext_emitted (frame : ByteString) (s : State) : (issueNext frame s).emitted = s.emitted := rfl
@[simp] theorem issueNext_responses (frame : ByteString) (s : State) :
    (issueNext frame s).responses = s.responses := rfl
@[simp] theorem issueNext_refusals (frame : ByteString) (s : State) : (issueNext frame s).refusals = s.refusals := rfl
@[simp] theorem issueNext_draws (frame : ByteString) (s : State) : (issueNext frame s).draws = s.draws := rfl
@[simp] theorem issueNext_pending (frame : ByteString) (s : State) :
    (issueNext frame s).pending = { frame := frame, overlapping := false } :: s.pending := rfl

/-! ### The state after reset -/

@[simp] theorem create_cfg (c : Config) : (State.create c).cfg = c := rfl
@[simp] theorem create_ready (c : Config) : (State.create c).ready = false := rfl
@[simp] theorem create_brightness (c : Config) : (State.create c).brightness = 0 := rfl
@[simp] theorem create_forceUpper (c : Config) : (State.create c).forceUpper = false := rfl
@[simp] theorem create_fb (c : Config) : (State.create c).fb = [] := rfl
@[simp] theorem create_cache (c : Config) :
    (State.create c).cache = { valid := false, text := [], upper := false, codes := [] } := rfl
@[simp] theorem create_emitted (c : Config) : (State.create c).emitted = [] := rfl
@[simp] theorem create_responses (c : Config) : (State.create c).responses = [] := rfl
@[simp] theorem create_refusals (c : Config) : (State.create c).refusals = [] := rfl
@[simp] theorem create_draws (c : Config) : (State.create c).draws = 0 := rfl
@[simp] theorem create_pending (c : Config) : (State.create c).pending = [] := rfl

/-! ### The state that resolve leaves: only CACHE may differ -/

@[simp] theorem resolveState_cfg (text : Text) (s : State) : (resolveState text s).cfg = s.cfg := by
  unfold resolveState; split <;> rfl
@[simp] theorem resolveState_ready (text : Text) (s : State) : (resolveState text s).ready = s.ready := by
  unfold resolveState; split <;> rfl
@[simp] theorem resolveState_brightness (text : Text) (s : State) : (resolveState text s).brightness = s.brightness := by
  unfold resolveState; split <;> rfl
@[simp] theorem resolveState_forceUpper (text : Text) (s : State) : (resolveState text s).forceUpper = s.forceUpper := by
  unfold resolveState; split <;> rfl
@[simp] theorem resolveState_fb (text : Text) (s : State) : (resolveState text s).fb = s.fb := by
  unfold resolveState; split <;> rfl
@[simp] theorem resolveState_emitted (text : Text) (s : State) : (resolveState text s).emitted = s.emitted := by
  unfold resolveState; split <;> rfl
@[simp] theorem resolveState_responses (text : Text) (s : State) : (resolveState text s).responses = s.responses := by
  unfold resolveState; split <;> rfl
@[simp] theorem resolveState_refusals (text : Text) (s : State) : (resolveState text s).refusals = s.refusals := by
  unfold resolveState; split <;> rfl
@[simp] theorem resolveState_draws (text : Text) (s : State) : (resolveState text s).draws = s.draws := by
  unfold resolveState; split <;> rfl
@[simp] theorem resolveState_pending (text : Text) (s : State) : (resolveState text s).pending = s.pending := by
  unfold resolveState; split <;> rfl

theorem resolveState_cache (text : Text) (s : State) :
    (resolveState text s).cache = if cacheHit text s then s.cache
      else { valid := true, text := text, upper := s.forceUpper, codes := resolvePure s.cfg text s.forceUpper } := by
  unfold resolveState; split <;> rfl

theorem resolveState_eq (text : Text) (s : State) :
    resolveState text s = { s with cache := (resolveState text s).cache } := by
  unfold resolveState; split <;> rfl

end Sys2Proof.Machine
end

