-- ==== Sys2Proof/Laws/Resolve.lean ====
section
/-! SUPPORT. What resolving a text can do: the two branches of R162, and the bound of R161's loop. -/

namespace Sys2Proof.Machine

variable {cfg : Config} {text : Text} {s : State}

@[simp] theorem mergeDot_length (codes : List SegCode) : (mergeDot codes).length = codes.length := by
  induction codes with
  | nil => rfl
  | cons c rest ih =>
    cases rest with
    | nil => rfl
    | cons d rest => simpa [mergeDot] using ih

theorem canMerge_append (codes : List SegCode) (last : SegCode) : canMerge (codes ++ [last]) = !last.getLsbD 7 := by
  simp [canMerge]

/-- A merge changes the last code alone. -/
theorem mergeDot_append (codes : List SegCode) (last : SegCode) :
    mergeDot (codes ++ [last]) = codes ++ [last ||| dpBit] := by
  induction codes with
  | nil => rfl
  | cons c rest ih =>
    cases rest with
    | nil => simp [mergeDot]
    | cons d rest => simp only [List.cons_append, mergeDot] at ih ⊢; rw [ih]

/-- The loop of R161 never builds more than N codes. -/
theorem resolveFrom_length (upper : Bool) (codes : List SegCode) (text : Text) (h : codes.length ≤ cfg.units) :
    (resolveFrom cfg upper codes text).length ≤ cfg.units := by
  induction text generalizing codes with
  | nil => exact h
  | cons ch rest ih =>
    simp only [resolveFrom]
    split
    · split
      · exact ih _ (by simpa using h)
      · split
        · exact h
        · exact ih _ (by simp only [List.length_append, List.length_singleton]; omega)
    · split
      · exact h
      · exact ih _ (by simp only [List.length_append, List.length_singleton]; omega)

theorem resolvePure_length (text : Text) (upper : Bool) : (resolvePure cfg text upper).length ≤ cfg.units :=
  resolveFrom_length upper [] text (Nat.zero_le _)

/-- When the key is the one CACHE holds. -/
theorem cacheHit_iff : cacheHit text s = true ↔
    s.cache.valid = true ∧ s.cache.text = text ∧ s.cache.upper = s.forceUpper := by
  simp [cacheHit, and_assoc]

/-- Everything that resolving can do: a hit returns CACHE's codes and changes nothing; a miss computes the codes and
writes CACHE alone (R162). -/
theorem resolve_cases (text : Text) (s : State) :
    (cacheHit text s = true ∧ resolveCodes text s = s.cache.codes ∧ resolveState text s = s) ∨
    (cacheHit text s = false ∧ resolveCodes text s = resolvePure s.cfg text s.forceUpper ∧
      resolveState text s = { s with cache := { valid := true, text := text, upper := s.forceUpper, codes := resolvePure s.cfg text s.forceUpper } }) := by
  cases h : cacheHit text s <;> simp [resolveCodes, resolveState, h]

end Sys2Proof.Machine
end

