-- ==== Sys2Proof/Laws/Render.lean ====
section
/-! SUPPORT. What a render does, said once: its writes lie inside the framebuffer, so it never faults; the state it
leaves; and the colour each LED reads as afterwards. -/

namespace Sys2Proof.Machine

variable {cfg : Config} {onColor : OnColor} {text : Text} {s : State}

@[simp] theorem toOutcome_ok (s : State) : toOutcome (.ok s) = .next s := rfl

@[simp] theorem whenReady_false (run : Except Fault State) (h : s.ready = false) : whenReady s run = .ok s := by
  simp [whenReady, h]

@[simp] theorem whenReady_true (run : Except Fault State) (h : s.ready = true) : whenReady s run = run := by
  simp [whenReady, h]

theorem ledIndex_inj {u u' : Nat} {p p' : Led} (h : ledIndex u p = ledIndex u' p') : u = u' ∧ p = p' := by
  simp only [ledIndex, ledsPerUnit] at h
  have := p.isLt; have := p'.isLt
  exact ⟨by omega, Fin.ext (by omega)⟩

theorem ledIndex_lt {u : Nat} (p : Led) (h : u < cfg.units) : ledIndex u p < ledCount cfg := by
  simp only [ledIndex, ledCount, ledsPerUnit]
  have := p.isLt; omega

/-- The writes of one unit: LED `p` of segment `k` gets its colour by bit `k` of the code (R181). -/
theorem mem_expandUnit {u : Nat} {code : SegCode} {e : Nat × Color} :
    e ∈ expandUnit cfg onColor u code ↔ ∃ k : Fin 8, ∃ p ∈ cfg.segMap.get k,
      e = (ledIndex u p, if code.getLsbD k.val then onColor u p else black) := by
  have hall : ∀ k : Fin 8, k ∈ ([0, 1, 2, 3, 4, 5, 6, 7] : List (Fin 8)) := by decide
  simp only [expandUnit, List.mem_flatMap, segmentWrites, List.mem_map]
  constructor
  · rintro ⟨k, -, p, hp, rfl⟩; exact ⟨k, p, hp, rfl⟩
  · rintro ⟨k, p, hp, rfl⟩; exact ⟨k, hall k, p, hp, rfl⟩

/-- The writes of a run of units, from unit `u` on. -/
theorem mem_expandUnits {codes : List SegCode} {u : Nat} {e : Nat × Color} :
    e ∈ expandUnits cfg onColor u codes ↔
      ∃ d, ∃ h : d < codes.length, e ∈ expandUnit cfg onColor (u + d) codes[d] := by
  induction codes generalizing u with
  | nil => simp [expandUnits]
  | cons code rest ih =>
    simp only [expandUnits, List.mem_append, ih]
    constructor
    · rintro (h | ⟨d, hd, h⟩)
      · exact ⟨0, by simp, by simpa using h⟩
      · exact ⟨d + 1, by simpa using hd, by simpa [Nat.add_assoc, Nat.add_comm 1 d] using h⟩
    · rintro ⟨d, hd, h⟩
      cases d with
      | zero => exact .inl (by simpa using h)
      | succ d => exact .inr ⟨d, by simpa using hd, by simpa [Nat.add_assoc, Nat.add_comm 1 d] using h⟩

/-- All of a render's writes lie inside the framebuffer (R50). -/
theorem renderWrites_lt (codes : List SegCode) : ∀ e ∈ renderWrites cfg onColor codes, e.1 < ledCount cfg := by
  intro e he
  rcases List.mem_append.1 he with h | h
  · obtain ⟨i, hi, rfl⟩ := List.mem_map.1 h
    exact List.mem_range.1 hi
  · obtain ⟨d, hd, h⟩ := mem_expandUnits.1 h
    obtain ⟨k, p, -, rfl⟩ := mem_expandUnit.1 h
    exact ledIndex_lt p (by simp at hd; omega)

/-- The segment of an LED is one only (R31). -/
theorem segment_unique {k k' : Fin 8} {p : Led} (h : p ∈ cfg.segMap.get k) (h' : p ∈ cfg.segMap.get k') : k = k' :=
  Classical.byContradiction fun hk => cfg.seg_disjoint k k' hk p h h'

/-- The framebuffer a render leaves. -/
def paintedFb (onColor : OnColor) (codes : List SegCode) (s : State) : Memory :=
  setAll s.fb (renderWrites s.cfg onColor codes)

/-- A render that takes effect never faults, and this is the state it leaves (R180, R184). -/
theorem composeAndEmit_ok (onColor : OnColor) (codes : List SegCode) (s : State) :
    composeAndEmit onColor codes s = .ok (emit
      ((List.range (ledCount s.cfg)).map fun i => scaleColor ((paintedFb onColor codes s).get i) s.brightness)
      { s with fb := paintedFb onColor codes s }) := by
  simp only [composeAndEmit, memWriteAll_ok _ s.fb (renderWrites_lt codes), scaleFrame,
    memReadAll_ok _ (List.range (ledCount s.cfg)) (fun i hi => List.mem_range.1 hi), List.map_map, paintedFb]
  rfl

/-- What a render answers when READY is 1. -/
theorem renderCommon_ready (onColor : OnColor) (h : s.ready = true) :
    renderCommon text onColor s = .ok (emit
      ((List.range (ledCount s.cfg)).map fun i =>
        scaleColor ((paintedFb onColor (resolveCodes text s) s).get i) s.brightness)
      { s with cache := (resolveState text s).cache, fb := paintedFb onColor (resolveCodes text s) s }) := by
  simp only [renderCommon, whenReady_true _ h, composeAndEmit_ok, paintedFb, resolveState_cfg, resolveState_fb,
    resolveState_brightness]
  congr 2
  rw [resolveState_eq]

/-- While READY is 0 a render changes nothing (R182). -/
theorem renderCommon_unready (onColor : OnColor) (h : s.ready = false) : renderCommon text onColor s = .ok s :=
  whenReady_false _ h

/-- A render never faults. -/
theorem renderCommon_ne_error (onColor : OnColor) (f : Fault) : renderCommon text onColor s ≠ .error f := by
  cases h : s.ready
  · simp [renderCommon_unready onColor h]
  · simp [renderCommon_ready onColor h]

/-- An LED of a unit that has a code reads as the on colour where its segment's bit is 1, black elsewhere (R181). -/
theorem get_paintedFb_lit {codes : List SegCode} {u : Nat} (hu : u < s.cfg.units) (hc : u < codes.length)
    (k : Fin 8) (p : Led) (hp : p ∈ s.cfg.segMap.get k) :
    (paintedFb onColor codes s).get (ledIndex u p) = if codes[u].getLsbD k.val then onColor u p else black := by
  have htake : u < (codes.take s.cfg.units).length := by simp; omega
  unfold paintedFb renderWrites
  rw [setAll_append]
  refine get_setAll_of_mem _ _ (mem_expandUnits.2 ⟨u, htake, ?_⟩) ?_
  · rw [Nat.zero_add]
    exact mem_expandUnit.2 ⟨k, p, hp, by simp⟩
  · intro e he hi
    obtain ⟨d, hd, h⟩ := mem_expandUnits.1 he
    obtain ⟨k', p', hp', rfl⟩ := mem_expandUnit.1 h
    obtain ⟨hdu, rfl⟩ := ledIndex_inj hi
    have hd0 : d = u := by omega
    subst hd0
    have hk := segment_unique hp' hp
    subst hk
    simp

/-- An LED of a unit that has no code reads black (R180: the black of the clear step). -/
theorem get_paintedFb_dark {codes : List SegCode} {u : Nat} (hu : u < s.cfg.units) (hc : codes.length ≤ u) (p : Led) :
    (paintedFb onColor codes s).get (ledIndex u p) = black := by
  unfold paintedFb renderWrites
  rw [setAll_append, get_setAll_other]
  · refine get_setAll_of_mem _ _ (List.mem_map.2 ⟨ledIndex u p, List.mem_range.2 (ledIndex_lt p hu), rfl⟩) ?_
    intro e he _
    obtain ⟨i, -, rfl⟩ := List.mem_map.1 he
    rfl
  · intro e he hi
    obtain ⟨d, hd, h⟩ := mem_expandUnits.1 he
    obtain ⟨k', p', hp', rfl⟩ := mem_expandUnit.1 h
    obtain ⟨hdu, -⟩ := ledIndex_inj hi
    simp at hd; omega

/-- An index outside the chain is not written. -/
theorem get_paintedFb_outside {codes : List SegCode} {i : Nat} (hi : ledCount s.cfg ≤ i) :
    (paintedFb onColor codes s).get i = s.fb.get i :=
  get_setAll_other _ _ fun e he h => absurd (renderWrites_lt codes e he) (by omega)

/-- A render keeps the framebuffer's canonical form. -/
theorem paintedFb_wf {codes : List SegCode} (h : Memory.wf (ledCount s.cfg) s.fb) :
    Memory.wf (ledCount s.cfg) (paintedFb onColor codes s) :=
  setAll_wf _ h (renderWrites_lt codes)

end Sys2Proof.Machine
end

