-- ==== Sys2Proof/Laws/Exec.lean ====
section
/-! SUPPORT. What `exec` can do, said once: a render is the common procedure with a text and an on-colour function that
depend on the configuration alone, and any other command leaves FB, EMITTED and the configuration as they are. -/

namespace Sys2Proof.Machine

theorem clockOutOfRange_iff {h m : Byte} : clockOutOfRange h m = true ↔ 99 < h.toNat ∨ 99 < m.toNat := by
  simp [clockOutOfRange]

/-- A render command is the common procedure (R180), the same one in every state of a configuration (R183). -/
theorem exec_render (cfg : Config) {i : Instr} (h : isRender i = true) :
    ∃ (text : Text) (onColor : OnColor), ∀ s : State, s.cfg = cfg →
      exec i s = toOutcome (renderCommon text onColor s) := by
  cases i with
  | renderSolid t c => exact ⟨t, onSolid c, fun _ _ => rfl⟩
  | renderVGrad t a b => exact ⟨t, onVGrad cfg a b, fun _ h => by subst h; rfl⟩
  | renderHGrad t a b => exact ⟨t, onHGrad cfg a b, fun _ h => by subst h; rfl⟩
  | renderCycle t o => exact ⟨t, onCycle o, fun _ _ => rfl⟩
  | renderClock hh m sec a b =>
    simp only [isRender, decide_eq_true_eq] at h
    have hin : clockOutOfRange hh m = false := by
      rw [Bool.eq_false_iff, Ne, clockOutOfRange_iff]; omega
    exact ⟨clockText cfg hh m, onClock cfg sec a b, fun _ h => by subst h; simp [exec, execRenderClock, hin]⟩
  | _ => simp [isRender] at h

/-- A command that is no render, or a clock out of its range, leaves FB, EMITTED, the configuration and the commands to
come as they are, and CACHE as it is or as `resolve` leaves it. -/
theorem exec_nonrender {i : Instr} {s t : State} (h : isRender i = false) (he : exec i s = .next t) :
    t.cfg = s.cfg ∧ t.fb = s.fb ∧ t.emitted = s.emitted ∧ t.pending = s.pending ∧
      (t.cache = s.cache ∨ ∃ text, t.cache = (resolveState text s).cache) := by
  cases i with
  | renderSolid t c => simp [isRender] at h
  | renderVGrad t a b => simp [isRender] at h
  | renderHGrad t a b => simp [isRender] at h
  | renderCycle t o => simp [isRender] at h
  | renderClock hh m sec a b =>
    simp only [isRender, decide_eq_false_iff_not] at h
    have hout : clockOutOfRange hh m = true := by rw [clockOutOfRange_iff]; omega
    simp only [exec, execRenderClock, hout, if_true, Host.Outcome.next.injEq] at he
    subst he; simp
  | glyphAt k =>
    simp only [exec, execGlyphAt] at he
    split at he <;> (simp only [Host.Outcome.next.injEq] at he; subst he; simp)
  | resolve text =>
    simp only [exec, execResolve, Host.Outcome.next.injEq] at he
    subst he
    exact ⟨by simp, by simp, by simp, by simp, .inr ⟨text, rfl⟩⟩
  | _ =>
    simp only [exec, execBegin, execSetBrightness, execSetForceUppercase, execIsReady, execAlphabetSize, execLookup,
      execPack, execUnpackRed, execUnpackGreen, execUnpackBlue, execHsvToRgb, execGamma, execWheel, execScale,
      Host.Outcome.next.injEq] at he
    subst he; simp

end Sys2Proof.Machine
end

