-- ==== Sys2Proof/Laws/PerInstr.lean ====
section
/-! SUPPORT. The families of statements made constructor by constructor (LAWS.json). -/

namespace Sys2Proof.Laws.EncodedLength

/-- The column "Frame bytes" of R73, L the text's length. -/
def frameBytes : Instr → Nat
  | .begin _ => 2
  | .setBrightness _ => 2
  | .setForceUppercase _ => 2
  | .isReady => 1
  | .alphabetSize => 1
  | .glyphAt _ => 2
  | .renderSolid t _ => t.length + 5
  | .renderVGrad t _ _ => t.length + 8
  | .renderHGrad t _ _ => t.length + 8
  | .renderCycle t _ => t.length + 3
  | .renderClock _ _ _ _ _ => 10
  | .lookup _ _ => 3
  | .pack _ _ _ => 4
  | .unpackRed _ => 4
  | .unpackGreen _ => 4
  | .unpackBlue _ => 4
  | .hsvToRgb _ _ _ => 5
  | .gamma _ => 2
  | .wheel _ => 2
  | .scale _ _ => 3
  | .resolve t => t.length + 2

/-- A command's frame has the length R73 gives it. -/
def Statement (i : Instr) : Prop := (encode i).length = frameBytes i

theorem begin (b : Byte) : Statement (.begin b) := rfl
theorem setBrightness (b : Byte) : Statement (.setBrightness b) := rfl
theorem setForceUppercase (u : Bool) : Statement (.setForceUppercase u) := rfl
theorem isReady : Statement .isReady := rfl
theorem alphabetSize : Statement .alphabetSize := rfl
theorem glyphAt (k : Byte) : Statement (.glyphAt k) := rfl
theorem renderSolid (t : Text) (c : Color) : Statement (.renderSolid t c) := by
  simp [Statement, encode, operandBytes, frameBytes, encodeText, encodeColor]
theorem renderVGrad (t : Text) (a b : Color) : Statement (.renderVGrad t a b) := by
  simp [Statement, encode, operandBytes, frameBytes, encodeText, encodeColor]
theorem renderHGrad (t : Text) (a b : Color) : Statement (.renderHGrad t a b) := by
  simp [Statement, encode, operandBytes, frameBytes, encodeText, encodeColor]
theorem renderCycle (t : Text) (o : Byte) : Statement (.renderCycle t o) := by
  simp [Statement, encode, operandBytes, frameBytes, encodeText]
theorem renderClock (h m s : Byte) (ch cm : Color) : Statement (.renderClock h m s ch cm) := rfl
theorem lookup (ch : Byte) (u : Bool) : Statement (.lookup ch u) := rfl
theorem pack (r g b : Byte) : Statement (.pack r g b) := rfl
theorem unpackRed (c : Color) : Statement (.unpackRed c) := rfl
theorem unpackGreen (c : Color) : Statement (.unpackGreen c) := rfl
theorem unpackBlue (c : Color) : Statement (.unpackBlue c) := rfl
theorem hsvToRgb (h : Hue) (s v : Byte) : Statement (.hsvToRgb h s v) := rfl
theorem gamma (x : Byte) : Statement (.gamma x) := rfl
theorem wheel (p : Byte) : Statement (.wheel p) := rfl
theorem scale (c b : Byte) : Statement (.scale c b) := rfl
theorem resolve (t : Text) : Statement (.resolve t) := by
  simp [Statement, encode, operandBytes, frameBytes, encodeText]

end Sys2Proof.Laws.EncodedLength
end

