-- ==== Sys2Proof/Tests/Slice0.lean ====
section
/-! SUPPORT. The model's own tests. Expected values are those of 95_test_vectors (named in each comment) or are written
out from the encoding of R72 and R73. After them stand the witnesses: for every statement with hypotheses, concrete
terms that meet them together. -/

namespace Sys2Proof.Tests

open Sys2Proof.Machine

/-! ### Small states -/

/-- RC0 (92_eei_decisions) with `n + 1` units; the gamma table is the test's own, entry x is 255 - x. -/
def rc0 (n : Fin 8) : Config :=
  Config.rc0 (n.val + 1) (Vector.ofFn fun x : Fin 256 => BitVec.ofNat 8 (255 - x.val)) ⟨by omega, by omega⟩

/-- A block of `n + 1` units that has done BEGIN 255. -/
def ready (n : Fin 8) : State := { State.create (rc0 n) with ready := true, brightness := 255 }

/-- A ready block of one unit whose cache holds the codes of "8". -/
def cached : State := { ready 0 with cache := { valid := true, text := [0x38], upper := false, codes := [0x7F] } }

/-- A block with one command to perform. -/
def given (frame : ByteString) (overlapping : Bool) (s : State) : State :=
  { s with pending := [{ frame := frame, overlapping := overlapping }] }

def next? : Host.Outcome State Fault Refusal → Option State
  | .next t => some t
  | _ => none

/-- The last response of the state a command leaves. -/
def answer (i : Instr) (s : State) : Option ByteString := (next? (exec i s)).bind fun t => t.responses.getLast?

/-- The last frame that the state a command leaves has emitted. -/
def picture (i : Instr) (s : State) : Option LedFrame := (next? (exec i s)).bind fun t => t.emitted.getLast?

/-! ### WellFormed -/

theorem test_wellFormed_refuses_256_bytes :
    wellFormed (.renderSolid (List.replicate 256 0x31) 0) = false ∧
    wellFormed (.renderVGrad (List.replicate 256 0x31) 0 0) = false ∧
    wellFormed (.renderHGrad (List.replicate 256 0x31) 0 0) = false ∧
    wellFormed (.renderCycle (List.replicate 256 0x31) 0) = false ∧
    wellFormed (.resolve (List.replicate 256 0x31)) = false := by decide +kernel

theorem test_wellFormed_accepts_255_bytes : wellFormed (.resolve (List.replicate 255 0x31)) = true := by decide +kernel

/-! ### Decode: one frame of every constructor, written out from R72 and R73 -/

theorem test_decode_control :
    decode [0x01, 0x80] = .ok (.begin 0x80) ∧ decode [0x02, 0x32] = .ok (.setBrightness 50) ∧
    decode [0x03, 0x01] = .ok (.setForceUppercase true) ∧ decode [0x03, 0x00] = .ok (.setForceUppercase false) ∧
    decode [0x04] = .ok .isReady ∧ decode [0x05] = .ok .alphabetSize ∧ decode [0x06, 0x1F] = .ok (.glyphAt 31) := by
  decide

theorem test_decode_render :
    decode [0x10, 0x02, 0x41, 0x42, 0x12, 0x34, 0x56] = .ok (.renderSolid [0x41, 0x42] 0x123456) ∧
    decode [0x11, 0x01, 0x38, 0x01, 0x02, 0x03, 0x0A, 0x0B, 0x0C] = .ok (.renderVGrad [0x38] 0x010203 0x0A0B0C) ∧
    decode [0x12, 0x00, 0xFF, 0x00, 0x00, 0x00, 0x00, 0xFF] = .ok (.renderHGrad [] 0xFF0000 0x0000FF) ∧
    decode [0x13, 0x01, 0x00, 0xFA] = .ok (.renderCycle [0x00] 250) ∧
    decode [0x14, 0x0A, 0x1E, 0x01, 0x00, 0xFF, 0x00, 0x00, 0x00, 0xFF] =
      .ok (.renderClock 10 30 1 0x00FF00 0x0000FF) := by decide

theorem test_decode_diagnostic :
    decode [0x20, 0x42, 0x01] = .ok (.lookup 0x42 true) ∧ decode [0x21, 0x12, 0x34, 0x56] = .ok (.pack 0x12 0x34 0x56) ∧
    decode [0x22, 0x12, 0x34, 0x56] = .ok (.unpackRed 0x123456) ∧
    decode [0x23, 0x12, 0x34, 0x56] = .ok (.unpackGreen 0x123456) ∧
    decode [0x24, 0x12, 0x34, 0x56] = .ok (.unpackBlue 0x123456) ∧
    decode [0x25, 0x55, 0x56, 0x80, 0x7F] = .ok (.hsvToRgb 0x5556 0x80 0x7F) ∧
    decode [0x26, 0x09] = .ok (.gamma 9) ∧ decode [0x27, 0xAA] = .ok (.wheel 170) ∧
    decode [0x28, 0xC8, 0x64] = .ok (.scale 200 100) ∧
    decode [0x29, 0x03, 0x31, 0x2E, 0x32] = .ok (.resolve [0x31, 0x2E, 0x32]) := by decide

/-- 95_test_vectors L2.1: the frames refused at the port. -/
theorem test_decode_refusals :
    decode [0x03, 0x02] = .error .malformedFrame ∧ decode [0x01] = .error .malformedFrame ∧
    decode [0x01, 0xFF, 0x00] = .error .malformedFrame ∧ decode [0x00] = .error .illegalOpcode ∧
    decode [0x07] = .error .illegalOpcode ∧ decode [0x07, 0xFF] = .error .illegalOpcode ∧
    decode [0x2A] = .error .illegalOpcode ∧ decode [0xFF] = .error .illegalOpcode ∧
    decode [0x10, 0x00, 0x00, 0x00] = .error .malformedFrame ∧ decode [0x29] = .error .malformedFrame ∧
    decode [0x29, 0x03, 0x31, 0x32] = .error .malformedFrame ∧ decode [0x20, 0x41, 0x02] = .error .malformedFrame ∧
    decode [0x14, 0x64] = .error .malformedFrame := by decide

/-- The word of a table row: byte 0 is the opcode, bytes the table gives no bits are zero. -/
theorem test_decodeTableWord :
    decodeTableWord 16 0x8001 = some (.begin 0x80) ∧ decodeTableWord 8 0x04 = some .isReady ∧
    decodeTableWord 8 0x10 = some (.renderSolid [] 0) ∧ decodeTableWord 32 0x56341221 = some (.pack 0x12 0x34 0x56) ∧
    decodeTableWord 8 0x07 = none := by decide

/-- 30_encoding R79 and 95_test_vectors P1: the textual form of a frame. -/
theorem test_assemble :
    assemble (ascii "BEGIN 128") = some [0x01, 0x80] ∧
    assemble (ascii "RENDER_SOLID \"1.2\", #FF0000") = some [0x10, 0x03, 0x31, 0x2E, 0x32, 0xFF, 0x00, 0x00] ∧
    assemble (ascii "HSV_TO_RGB 21845, 128, 0x80") = some [0x25, 0x55, 0x55, 0x80, 0x80] ∧
    assemble (ascii "BEGIN 256") = none := by decide +kernel

/-! ### Steps -/

/-- 95_test_vectors L2.1: from reset the very next step runs the placed word. -/
theorem test_step_runs_placed_word :
    (next? (step (State.reset.withFetchWord 16 0x8001))).map (fun t => (t.ready, t.brightness, t.pending)) =
      some (true, 0x80, []) := by decide

/-- 95_test_vectors P6: a refused frame leaves its mark. -/
theorem test_step_marks_refusal :
    (next? (step (given [0x03, 0x02] false (ready 0)))).map (fun t => (t.refusals, t.forceUpper, t.responses)) =
      some ([.malformedFrame], false, []) := by decide

/-- 95_test_vectors L2.10: BEGIN 10 then BEGIN 200. -/
theorem test_begin :
    ((next? (exec (.begin 10) (State.create (rc0 0)))).bind fun t => next? (exec (.begin 200) t)).map
      (fun t => (t.ready, t.brightness)) = some (true, 200) := by decide

theorem test_setBrightness :
    (next? (exec (.setBrightness 50) (State.create (rc0 0)))).map (fun t => (t.ready, t.brightness, t.emitted)) =
      some (false, 50, []) := by decide

/-- 95_test_vectors L2.8: after the toggle the cached "AB" is resolved again. -/
theorem test_setForceUppercase :
    ((next? (exec (.resolve [0x41, 0x42]) (ready 3))).bind fun t => next? (exec (.setForceUppercase true) t)).bind
      (answer (.resolve [0x41, 0x42])) = some [0x02, 0x77, 0x7F] := by decide +kernel

theorem test_isReady :
    answer .isReady (State.create (rc0 0)) = some [0x00] ∧ answer .isReady (ready 0) = some [0x01] := by decide

/-- 95_test_vectors L2.2. -/
theorem test_alphabet :
    answer .alphabetSize (ready 0) = some [0x20] ∧ answer (.glyphAt 0) (ready 0) = some [0x30] ∧
    answer (.glyphAt 19) (ready 0) = some [0x6A] ∧ answer (.glyphAt 20) (ready 0) = some [0x6C] ∧
    answer (.glyphAt 31) (ready 0) = some [0x2D] := by decide

/-- 95_test_vectors L2.2: out of range some byte is responded and FB, CACHE and the tables stay. -/
theorem test_glyphAt_out_of_range :
    (next? (exec (.glyphAt 32) (ready 0))).map
      (fun t => (t.responses.length, t.draws, decide (t.cfg = rc0 0), t.fb)) = some (1, 1, true, []) := by decide +kernel

/-- 95_test_vectors L2.2. -/
theorem test_lookup :
    answer (.lookup 0x42 true) (ready 0) = some [0x01, 0x7F] ∧ answer (.lookup 0x62 false) (ready 0) = some [0x01, 0x7C] ∧
    answer (.lookup 0x20 false) (ready 0) = some [0x01, 0x00] ∧ answer (.lookup 0x2E false) (ready 0) = some [0x00, 0x00] ∧
    answer (.lookup 0xC1 true) (ready 0) = some [0x00, 0x00] := by decide

/-- 95_test_vectors L2.4. -/
theorem test_pack_unpack :
    answer (.pack 0x12 0x34 0x56) (ready 0) = some [0x12, 0x34, 0x56] ∧
    answer (.unpackRed 0x123456) (ready 0) = some [0x12] ∧ answer (.unpackGreen 0x123456) (ready 0) = some [0x34] ∧
    answer (.unpackBlue 0x123456) (ready 0) = some [0x56] := by decide

/-- 95_test_vectors L2.3. -/
theorem test_hsvToRgb :
    answer (.hsvToRgb 21845 128 128) (ready 0) = some [0x3F, 0x80, 0x3F] ∧
    answer (.hsvToRgb 65500 255 255) (ready 0) = some [0xFF, 0x00, 0x01] ∧
    answer (.hsvToRgb 65535 255 255) (ready 0) = some [0xFF, 0x00, 0x00] ∧
    answer (.hsvToRgb 1000 200 100) (ready 0) = some [0x64, 0x1C, 0x15] ∧
    answer (.hsvToRgb 32767 100 200) (ready 0) = some [0x79, 0xC8, 0xC8] := by decide

/-- 95_test_vectors L2.11, with the test's own table. -/
theorem test_gamma : answer (.gamma 1) (ready 0) = some [254] := by decide +kernel

/-- 95_test_vectors L2.5. -/
theorem test_wheel :
    answer (.wheel 84) (ready 0) = some [0x03, 0x00, 0xFC] ∧ answer (.wheel 85) (ready 0) = some [0x00, 0x00, 0xFF] ∧
    answer (.wheel 169) (ready 0) = some [0x00, 0xFC, 0x03] ∧ answer (.wheel 170) (ready 0) = some [0x00, 0xFF, 0x00] ∧
    answer (.wheel 255) (ready 0) = some [0xFF, 0x00, 0x00] := by decide

/-- 95_test_vectors L2.6: the operand counts, not BRIGHTNESS, which is 255 here. -/
theorem test_scale :
    answer (.scale 200 100) (ready 0) = some [78] ∧ answer (.scale 51 128) (ready 0) = some [26] ∧
    answer (.scale 1 127) (ready 0) = some [0] ∧ answer (.scale 1 128) (ready 0) = some [1] := by decide

/-- 95_test_vectors L2.7: interpolation truncates toward the first colour, in both directions. -/
theorem test_blendCh :
    blendCh 0 255 5 10 = 127 ∧ blendCh 255 0 5 10 = 128 ∧ blendCh 10 20 3 10 = 13 ∧ blendCh 20 10 3 10 = 17 ∧
    blendCh 0 255 11 12 = 233 ∧ blendCh 255 0 11 12 = 22 := by decide

/-- 95_test_vectors L2.8, N = 4. -/
theorem test_resolve :
    answer (.resolve [0x31, 0x2E, 0x2E, 0x32]) (ready 3) = some [0x03, 0x86, 0x80, 0x5B] ∧
    answer (.resolve [0x2E, 0x35]) (ready 3) = some [0x02, 0x80, 0x6D] ∧
    answer (.resolve [0x31, 0x32, 0x33, 0x34, 0x2E, 0x2E]) (ready 3) = some [0x04, 0x06, 0x5B, 0x4F, 0xE6] ∧
    answer (.resolve [0x6B, 0x2E]) (ready 3) = some [0x01, 0x80] ∧ answer (.resolve []) (ready 3) = some [0x00] := by
  decide

/-- 95_test_vectors P6: a hit returns the cached codes and leaves CACHE. -/
theorem test_resolve_hit :
    (next? (exec (.resolve [0x38]) cached)).map (fun t => (t.responses, decide (t.cache = cached.cache))) =
      some ([[0x01, 0x7F]], true) := by decide

/-- 95_test_vectors L2.9, N = 1: "1" in red. -/
theorem test_renderSolid :
    picture (.renderSolid [0x31] 0xFF0000) (ready 0) = some
      [0, 0, 0xFF0000, 0xFF0000, 0xFF0000, 0xFF0000, 0, 0, 0, 0, 0, 0, 0, 0, 0] := by decide +kernel

/-- 95_test_vectors L2.9: at BRIGHTNESS 0 the frame is black and FB holds the colours. -/
theorem test_renderSolid_dark :
    (next? (exec (.renderSolid [0x38] 0xFFFFFF) { ready 0 with brightness := 0 })).map
      (fun t => (t.emitted, t.fb.get 0, t.fb.get 13, t.fb.get 14)) =
      some ([List.replicate 15 0], 0xFFFFFF, 0xFFFFFF, 0) := by decide +kernel

/-- 95_test_vectors L2.9, N = 1. -/
theorem test_renderVGrad :
    picture (.renderVGrad [0x38] 0xFFFFFF 0x000000) (ready 0) = some
      [0xFFFFFF, 0xFFFFFF, 0xCCCCCC, 0x999999, 0x666666, 0x333333, 0, 0, 0x333333, 0x666666, 0x999999, 0xCCCCCC,
       0x808080, 0x808080, 0] := by decide +kernel

/-- 95_test_vectors P5, N = 2: both units' columns count from the chain's left end. -/
theorem test_renderHGrad :
    picture (.renderHGrad [0x38, 0x38] 0x000000 0xFF0000) (ready 1) = some
      [0x150000, 0x3F0000, 0x550000, 0x550000, 0x550000, 0x550000, 0x3F0000, 0x150000, 0, 0, 0, 0, 0x150000, 0x3F0000, 0,
       0x940000, 0xBF0000, 0xD40000, 0xD40000, 0xD40000, 0xD40000, 0xBF0000, 0x940000, 0x7F0000, 0x7F0000, 0x7F0000,
       0x7F0000, 0x940000, 0xBF0000, 0] := by decide +kernel

/-- 95_test_vectors P4, N = 1: the wheel index wraps. -/
theorem test_renderCycle :
    picture (.renderCycle [0x38] 250) (ready 0) = some
      [0xF00F00, 0xF60009, 0xDB0024, 0xC0003F, 0xA5005A, 0x8A0075, 0x6F0090, 0x5400AB, 0x3900C6, 0x1E00E1, 0x0300FC,
       0x0018E7, 0x0033CC, 0x004EB1, 0] := by decide +kernel

/-- 95_test_vectors L2.9, N = 6 and N = 3: the padding, and the unit from which the minute colour holds. -/
theorem test_renderClock :
    (next? (exec (.renderClock 23 59 0 0x00FF00 0x0000FF) (ready 5))).map
      (fun t => (t.cache.codes, t.fb.get 2, t.fb.get (15 * 3 + 2), t.fb.get (15 * 4 + 4))) =
      some ([0x00, 0x00, 0x5B, 0x4F, 0x6D, 0x6F], 0, 0x00FF00, 0x0000FF) ∧
    (next? (exec (.renderClock 12 34 1 0x00FF00 0x0000FF) (ready 2))).map
      (fun t => (t.cache.codes, t.fb.get (15 + 2), t.fb.get (30 + 2))) =
      some ([0x06, 0x5B, 0x4F], 0x00FF00, 0x00007F) := by decide +kernel

/-- 95_test_vectors L2.1 and L2.9: out of range it is refused even before BEGIN; in range before BEGIN it does nothing. -/
theorem test_renderClock_before_begin :
    (next? (exec (.renderClock 100 0 0 0 0) (State.create (rc0 0)))).map (fun t => (t.refusals, t.emitted)) =
      some ([.clockFieldRange], []) ∧
    (next? (exec (.renderClock 99 99 255 0 0) (State.create (rc0 0)))).map (fun t => (t.refusals, t.cache.valid)) =
      some ([], false) := by decide

/-- The model's choice of notes/assumptions/15.md: an overlapping command is `reentrant` even with an illegal opcode. -/
theorem test_step_overlap_before_decoding :
    (match step (given [0x07] true cached) with | .refused r => decide (r = .reentrant) | _ => false) = true := by decide

/-- The state after reset (R260). -/
theorem test_reset : State.reset.ready = false ∧ State.reset.fb = [] ∧ State.reset.cache.valid = false := by decide

/-! ### Witnesses: the hypotheses of each statement, met together -/

theorem cached_legal : cached.Inv := ⟨⟨by decide, by decide⟩, fun _ => by decide +kernel, by intro f hf; cases hf⟩

theorem witness_StepPerformsDecodedCommand :
    (given [0x01, 0x80] false cached).pending = { frame := [0x01, 0x80], overlapping := false } :: [] ∧
    decode [0x01, 0x80] = .ok (.begin 0x80) := by decide

theorem witness_StoredTableWordIsRunNext : decodeTableWord 8 0x13 = some (.renderCycle [] 0) := by decide

theorem witness_RefusedFrameLeavesOnlyItsMark :
    (given [0x2A] false cached).pending = { frame := [0x2A], overlapping := false } :: [] ∧
    decode [0x2A] = .error .illegalOpcode ∧
    (given [] false cached).pending = { frame := [], overlapping := false } :: [] ∧
    decode [] = .error .malformedFrame := by decide

theorem witness_OverlapStopsTheRunAndIdlenessKeepsIt :
    (given [0x04] true cached).pending = { frame := [0x04], overlapping := true } :: [] ∧ cached.pending = [] := by decide

/-- Both sides of every boundary of R74. -/
theorem witness_IllegalOpcodesAreTheUnlistedOnes :
    (∀ op ∈ ([0x00, 0x07, 0x0F, 0x15, 0x1F, 0x2A, 0xFF] : List Byte), decode [op] = .error .illegalOpcode) ∧
    ∀ op ∈ ([0x01, 0x06, 0x10, 0x14, 0x20, 0x29] : List Byte), decode [op] ≠ .error .illegalOpcode := by decide

/-- Each of the three ways to be malformed, and the frames next to them that are not. -/
theorem witness_MalformedFramesAreWrongLengthOrBadBool :
    (frameLength [0x29, 0x02, 0x31] = some 4 ∧ decode [0x29, 0x02, 0x31] = .error .malformedFrame) ∧
    decode [0x29, 0x02, 0x31, 0x32] = .ok (.resolve [0x31, 0x32]) ∧
    decode [0x03, 0x02] = .error .malformedFrame ∧ decode [0x03, 0x01] = .ok (.setForceUppercase true) ∧
    decode [0x20, 0x41, 0xFF] = .error .malformedFrame ∧ decode [0x20, 0x41, 0x00] = .ok (.lookup 0x41 false) := by decide

theorem witness_DecodedFrameHasItsLayoutsLength : decode [0x29, 0x01, 0x31] = .ok (.resolve [0x31]) := by decide

theorem witness_DecodeEncodeRoundTrip :
    wellFormed (.renderSolid (List.replicate 255 0x31) 0xFFFFFF) = true ∧ wellFormed (.resolve []) = true := by
  decide +kernel

theorem witness_EncodeDecodeRoundTrip : decode [0x25, 0xFF, 0x00, 0x01, 0x02] = .ok (.hsvToRgb 0xFF00 1 2) := by decide

theorem witness_AssembleDisassembleRoundTrip : wellFormed (.renderCycle [0x22, 0x5C, 0x00, 0xFF] 255) = true := by decide

theorem witness_StepKeepsLegalStates :
    (given [0x02, 0x07] false cached).Inv ∧
    step (given [0x02, 0x07] false cached) = .next { cached with brightness := 7 } :=
  ⟨⟨cached_legal.fb_wf, cached_legal.cache_coherent, cached_legal.frames_full⟩, rfl⟩

theorem witness_NoCommandWritesTheTables :
    exec (.setBrightness 7) cached = .next { cached with brightness := 7 } ∧
    step (given [0x02, 0x07] false cached) = .next { cached with brightness := 7 } := ⟨rfl, rfl⟩

theorem witness_ReadyFlagRule :
    (exec (.setBrightness 7) cached = .next { cached with brightness := 7 } ∧ cached.ready = true) ∧
    (isRender (.renderClock 99 99 255 0 0) = true ∧ (State.create (rc0 0)).ready = false) := ⟨⟨rfl, rfl⟩, by decide⟩

theorem witness_RegistersChangeOnlyByTheirCommands :
    exec (.begin 0) cached = .next { cached with brightness := 0, ready := true } ∧
    exec (.setBrightness 255) cached = .next { cached with brightness := 255 } ∧
    exec (.setForceUppercase true) cached = .next { cached with forceUpper := true } ∧
    exec (.pack 1 2 3) cached = .next { cached with responses := [[1, 2, 3]] } := ⟨rfl, rfl, rfl, rfl⟩

theorem witness_QueriesRespondOnce :
    (exec (.pack 1 2 3) cached = .next { cached with responses := [[1, 2, 3]] } ∧ isQuery (.pack 1 2 3) = true) ∧
    (exec (.setBrightness 7) cached = .next { cached with brightness := 7 } ∧ isQuery (.setBrightness 7) = false) :=
  ⟨⟨rfl, rfl⟩, rfl, rfl⟩

/-- The state a solid render of "8" leaves: the next state of the statements about renders. -/
def rendered : State := (next? (exec (.renderSolid [0x38] 0x00FF00) cached)).getD cached

theorem rendered_next : exec (.renderSolid [0x38] 0x00FF00) cached = .next rendered := rfl

theorem rendered_entries : rendered.fb.get 13 = 0x00FF00 ∧ rendered.fb.get 14 = 0 ∧ rendered.emitted.length = 1 := by
  decide +kernel

theorem witness_OnlyRendersEmitAndWriteTheFramebuffer :
    (exec (.renderSolid [0x38] 0x00FF00) cached = .next rendered ∧ isRender (.renderSolid [0x38] 0x00FF00) = true ∧
      cached.ready = true) ∧
    (exec (.renderSolid [0x38] 0x00FF00) (State.create (rc0 0)) = .next (State.create (rc0 0)) ∧
      ¬(isRender (.renderSolid [0x38] 0x00FF00) = true ∧ (State.create (rc0 0)).ready = true)) ∧
    15 * cached.cfg.units ≤ 15 := ⟨⟨rfl, rfl, rfl⟩, ⟨rfl, by decide⟩, by decide⟩

theorem witness_LogsAndMarkOnlyGrow :
    step (given [0x07] false cached) = .next { cached with refusals := [.illegalOpcode] } := rfl

/-- The first and the last alphabet index, and the bytes next to the folded range. -/
theorem witness_LookupReadsTheSelectedTable :
    alphabet[0]? = some (fold 0x30) ∧ alphabet[31]? = some (fold 0x2D) ∧ alphabet[11]? = some (fold 0x42) ∧
    fold 0x40 ∉ alphabet ∧ fold 0x5B ∉ alphabet ∧ fold 0xFF ∉ alphabet := by decide

/-- The ends of the folded range and the bytes next to it, and a letter that the tables share. -/
theorem witness_LookupIgnoresCase :
    ((0x41 : Byte) ≤ 0x41 ∧ (0x41 : Byte) ≤ 0x5A) ∧ ((0x41 : Byte) ≤ 0x5A ∧ (0x5A : Byte) ≤ 0x5A) ∧
    ¬((0x41 : Byte) ≤ 0x40 ∧ (0x40 : Byte) ≤ 0x5A) ∧ ¬((0x41 : Byte) ≤ 0x5B ∧ (0x5B : Byte) ≤ 0x5A) ∧
    fold 0x41 ∉ ([0x62, 0x64, 0x6E, 0x6F, 0x72] : List Byte) := by decide

/-- The ends of every band of R100, and of the indices beyond it. -/
theorem witness_GlyphAtResponds :
    ((0 : Byte) < 10 ∧ (9 : Byte) < 10) ∧ ((10 : Byte) ≤ 10 ∧ (10 : Byte) < 20) ∧ ((10 : Byte) ≤ 19 ∧ (19 : Byte) < 20) ∧
    ((20 : Byte) ≤ 20 ∧ (20 : Byte) < 30) ∧ ((20 : Byte) ≤ 29 ∧ (29 : Byte) < 30) ∧ (30 : Byte) < 32 ∧ (31 : Byte) < 32 ∧
    (32 : Byte) ≤ 32 ∧ (32 : Byte) ≤ 255 := by decide

theorem witness_UnpackRespondsOneChannel :
    (0x12FF00 : Color).toNat = (0x12 : Byte).toNat * 65536 + (0xFF : Byte).toNat * 256 + (0x00 : Byte).toNat := by decide

theorem witness_HsvToRgbResponds : (0xFF00 : Hue).toNat = (0xFF : Byte).toNat * 256 + (0x00 : Byte).toNat := by decide

/-- The first and the last index of every slice. -/
theorem witness_HsvStagesAreExact :
    hexcone 0 = (255, 0, 0) ∧ hexcone 254 = (255, 254, 0) ∧ hexcone 255 = (255, 255, 0) ∧ hexcone 509 = (1, 255, 0) ∧
    hexcone 510 = (0, 255, 0) ∧ hexcone 764 = (0, 255, 254) ∧ hexcone 765 = (0, 255, 255) ∧ hexcone 1019 = (0, 1, 255) ∧
    hexcone 1020 = (0, 0, 255) ∧ hexcone 1274 = (254, 0, 255) ∧ hexcone 1275 = (255, 0, 255) ∧
    hexcone 1529 = (255, 0, 1) ∧ hexcone 1530 = (255, 0, 0) := by decide

/-- The positions where the three bands meet. -/
theorem witness_WheelRespondsItsBandColour :
    (84 : Byte).toNat < 85 ∧ (85 ≤ (85 : Byte).toNat ∧ (85 : Byte).toNat < 170) ∧
    (85 ≤ (169 : Byte).toNat ∧ (169 : Byte).toNat < 170) ∧ 170 ≤ (170 : Byte).toNat ∧ 170 ≤ (255 : Byte).toNat := by decide

theorem witness_BlendStaysBetweenItsEnds : (0 < 10 ∧ 0 ≤ 10) ∧ (0 < 10 ∧ 10 ≤ 10) := by decide

theorem witness_ResolveRespondsItsCodes : cached.cacheCoherent ∧ ([] : Text) = [] := ⟨cached_legal.cache_coherent, rfl⟩

theorem witness_DotlessTextGivesOneCodePerByte : (0x2E : Byte) ∉ ([0x54, 0x4F, 0x4F] : Text) := by decide

/-- One merge, one unit of its own with room for it, one without; a glyph with room for it, one without. -/
theorem witness_DotMergesOrTakesItsOwnUnit :
    (0x06 : SegCode).getLsbD 7 = false ∧
    ((0x86 : SegCode).getLsbD 7 = true ∧ ([] : List SegCode).length + 1 < (rc0 1).units) ∧
    ((0x86 : SegCode).getLsbD 7 = true ∧ ([] : List SegCode).length + 1 = (rc0 0).units) ∧
    ((0x35 : Byte) ≠ 0x2E ∧ ([0x86] : List SegCode).length < (rc0 1).units) ∧
    ((0x35 : Byte) ≠ 0x2E ∧ ([0x86] : List SegCode).length = (rc0 0).units) := by decide

theorem witness_DecimalPointExamples :
    2 ≤ (rc0 1).units ∧ lookupFn (rc0 1) 0x31 true = some 0x06 ∧ lookupFn (rc0 1) 0x32 true = some 0x5B ∧
    lookupFn (rc0 1) 0x35 true = some 0x6D := by decide

theorem witness_ResolveIsAPureMemoization : cached.cacheCoherent := cached_legal.cache_coherent

/-- A state whose cache holds the codes and the same state with an empty cache. -/
theorem witness_CacheCannotBeObserved :
    (given [0x29, 0x01, 0x38] false cached).cacheCoherent ∧
    State.cacheCoherent { given [0x29, 0x01, 0x38] false cached with cache := (State.create (rc0 0)).cache } ∧
    step (given [0x29, 0x01, 0x38] false cached) = .next { cached with responses := [[0x01, 0x7F]] } :=
  ⟨cached_legal.cache_coherent, fun h => absurd h (by decide), rfl⟩

theorem witness_OnlyVariantLettersDependOnForceUpper :
    (∀ ch ∈ ([0x31, 0x2E, 0x41] : Text), fold ch ∉ ([0x62, 0x64, 0x6E, 0x6F, 0x72] : List Byte)) ∧
    (99 : Byte).toNat ≤ 99 ∧ (0 : Byte).toNat ≤ 99 := by decide

theorem witness_RenderSolidPaintsAndEmits : cached.ready = true ∧ (ready 7).ready = true := by decide

theorem witness_RenderVGradPaintsAndEmits : cached.ready = true ∧ (ready 7).ready = true := by decide

theorem witness_RenderHGradPaintsAndEmits : cached.ready = true ∧ (ready 7).ready = true := by decide

theorem witness_RenderCyclePaintsAndEmits : cached.ready = true ∧ (ready 7).ready = true := by decide

theorem witness_RenderClockPaintsAndEmits :
    (ready 3).ready = true ∧ (99 : Byte).toNat ≤ 99 ∧ (0 : Byte).toNat ≤ 99 := by decide

theorem witness_ClockOutOfRangeIsRefused :
    (99 < (100 : Byte).toNat ∨ 99 < (0 : Byte).toNat) ∧ (99 < (99 : Byte).toNat ∨ 99 < (100 : Byte).toNat) := by decide

theorem witness_HorizontalGradientNeverReachesItsEnd :
    0 < (rc0 0).units ∧ 7 < (rc0 7).units ∧ (0 : Byte) ≠ 255 := by decide

theorem witness_RenderingTwiceIsIdempotent :
    isRender (.renderSolid [0x38] 0x00FF00) = true ∧ cached.ready = true ∧ cached.Inv ∧
    exec (.renderSolid [0x38] 0x00FF00) cached = .next rendered := ⟨rfl, rfl, cached_legal, rfl⟩

theorem witness_TooLongTextIsClamped :
    (ready 3).ready = true ∧ (ready 3).Inv ∧ (ready 3).cfg.units = 4 ∧
    lookupFn (ready 3).cfg 0x6F (ready 3).forceUpper = some 0x5C ∧
    lookupFn (ready 3).cfg 0x6C (ready 3).forceUpper = some 0x38 ∧
    ∃ t, exec (.renderSolid [0x54, 0x4F, 0x4F, 0x4C, 0x4F, 0x4E, 0x47] 0xFFFFFF) (ready 3) = .next t :=
  ⟨rfl, ⟨⟨by decide, by decide⟩, fun h => absurd h (by decide), fun _ hf => (by cases hf)⟩, rfl, by decide, by decide, _, rfl⟩

/-- BRIGHTNESS 255 and BRIGHTNESS 0. -/
theorem witness_BrightnessScalesTheFrameOnly :
    (isRender (.renderSolid [0x38] 0x00FF00) = true ∧ cached.ready = true ∧
      exec (.renderSolid [0x38] 0x00FF00) cached = .next rendered ∧ cached.brightness = 255) ∧
    ({ cached with brightness := 0 } : State).ready = true ∧ ({ cached with brightness := 0 } : State).brightness = 0 ∧
    ∃ t, exec (.renderSolid [0x38] 0x00FF00) { cached with brightness := 0 } = .next t :=
  ⟨⟨rfl, rfl, rfl, rfl⟩, rfl, rfl, _, rfl⟩

end Sys2Proof.Tests
end

/-! SUPPORT. What the statements of 10_state rest on: a coherent cache is a pure memoization; what a render, a command
and a step can do to the state; and that a command does the same from either of two coherent caches. -/

namespace Sys2Proof.Machine

variable {i : Instr} {s t : State} {text : Text} {onColor : OnColor}

/-! ### The coherent cache (R28, R162) -/

/-- Coherence speaks of the configuration and of CACHE alone. -/
theorem cacheCoherent_of_eq (hcfg : t.cfg = s.cfg) (hcache : t.cache = s.cache) (h : s.cacheCoherent) :
    t.cacheCoherent := by
  unfold State.cacheCoherent at *
  rw [hcfg, hcache]
  exact h

theorem resolveCodes_of_cacheCoherent (h : s.cacheCoherent) :
    resolveCodes text s = resolvePure s.cfg text s.forceUpper := by
  obtain ⟨hit, hcodes, -⟩ | ⟨-, hcodes, -⟩ := resolve_cases text s
  · obtain ⟨hvalid, htext, hupper⟩ := cacheHit_iff.1 hit
    rw [hcodes, h hvalid, htext, hupper]
  · exact hcodes

theorem resolveState_cacheCoherent (h : s.cacheCoherent) : (resolveState text s).cacheCoherent := by
  obtain ⟨-, -, hstate⟩ | ⟨-, -, hstate⟩ := resolve_cases text s <;> rw [hstate]
  · exact h
  · exact fun _ => rfl

/-- Once a text is resolved, CACHE holds its key. -/
theorem cacheHit_resolveState (text : Text) (s : State) : cacheHit text (resolveState text s) = true := by
  obtain ⟨hit, -, hstate⟩ | ⟨-, -, hstate⟩ := resolve_cases text s <;> rw [hstate]
  · exact hit
  · exact cacheHit_iff.2 ⟨rfl, rfl, rfl⟩

theorem resolveState_of_cacheHit (h : cacheHit text s = true) : resolveState text s = s := by
  simp [resolveState, h]

/-! ### What a render and what any command can do -/

/-- Everything a render can do: nothing, or emit a full frame after writing FB, in its canonical form, and CACHE. -/
theorem exec_render_cases (h : isRender i = true) (he : exec i s = .next t) :
    t = s ∨ ∃ (text : Text) (frame : LedFrame) (fb : Memory),
      t = emit frame { s with cache := (resolveState text s).cache, fb := fb } ∧
      frame.length = ledCount s.cfg ∧
      (Memory.wf (ledCount s.cfg) s.fb → Memory.wf (ledCount s.cfg) fb) := by
  obtain ⟨text, onColor, hexec⟩ := exec_render s.cfg h
  rw [hexec s rfl] at he
  obtain hready | hready := Bool.eq_false_or_eq_true s.ready
  · rw [renderCommon_ready _ hready] at he
    exact .inr ⟨text, _, _, (Host.Outcome.next.inj he).symm, by simp, paintedFb_wf⟩
  · rw [renderCommon_unready _ hready] at he
    exact .inl (Host.Outcome.next.inj he).symm

theorem exec_cfg (he : exec i s = .next t) : t.cfg = s.cfg := by
  cases hr : isRender i with
  | false => exact (exec_nonrender hr he).1
  | true => obtain rfl | ⟨_, _, _, rfl, -, -⟩ := exec_render_cases hr he <;> rfl

/-- A command leaves CACHE as it is or as resolving a text leaves it. -/
theorem exec_cache (he : exec i s = .next t) :
    t.cache = s.cache ∨ ∃ text, t.cache = (resolveState text s).cache := by
  cases hr : isRender i with
  | false =>
    obtain ⟨-, -, -, -, hcache⟩ := exec_nonrender hr he
    exact hcache
  | true =>
    obtain rfl | ⟨text, _, _, rfl, -, -⟩ := exec_render_cases hr he
    · exact .inl rfl
    · exact .inr ⟨text, rfl⟩

theorem exec_cacheCoherent (h : s.cacheCoherent) (he : exec i s = .next t) : t.cacheCoherent := by
  obtain hcache | ⟨text, hcache⟩ := exec_cache he
  · exact cacheCoherent_of_eq (exec_cfg he) hcache h
  · exact cacheCoherent_of_eq ((exec_cfg he).trans (resolveState_cfg text s).symm) hcache
      (resolveState_cacheCoherent h)

/-- A legal state is legal after a command: only a render writes FB and EMITTED (R26, R33). -/
theorem exec_inv (h : s.Inv) (he : exec i s = .next t) : t.Inv := by
  have hcoherent := exec_cacheCoherent h.cache_coherent he
  cases hr : isRender i with
  | false =>
    obtain ⟨hcfg, hfb, hemitted, -⟩ := exec_nonrender hr he
    exact ⟨by rw [hcfg, hfb]; exact h.fb_wf, hcoherent, by rw [hcfg, hemitted]; exact h.frames_full⟩
  | true =>
    obtain rfl | ⟨_, frame, _, rfl, hlength, hwf⟩ := exec_render_cases hr he
    · exact h
    · refine ⟨hwf h.fb_wf, hcoherent, fun f hf => ?_⟩
      obtain hold | hnew := List.mem_append.1 hf
      · exact h.frames_full f hold
      · rw [List.mem_singleton.1 hnew]
        exact hlength

/-- No render writes a register. -/
theorem exec_render_registers (h : isRender i = true) (he : exec i s = .next t) :
    t.ready = s.ready ∧ t.brightness = s.brightness ∧ t.forceUpper = s.forceUpper := by
  obtain rfl | ⟨_, _, _, rfl, -, -⟩ := exec_render_cases h he <;> exact ⟨rfl, rfl, rfl⟩

/-- While READY is 0 a render is a no-op (R182). -/
theorem exec_render_unready (h : isRender i = true) (hready : s.ready = false) : exec i s = .next s := by
  obtain ⟨text, onColor, hexec⟩ := exec_render s.cfg h
  rw [hexec s rfl, renderCommon_unready _ hready, toOutcome_ok]

/-- A clock that is no render is out of its range, and is refused (R194). -/
theorem exec_renderClock_refused {hours minutes seconds : Byte} {colorH colorM : Color}
    (h : isRender (.renderClock hours minutes seconds colorH colorM) = false) :
    exec (.renderClock hours minutes seconds colorH colorM) s = .next (refuse .clockFieldRange s) := by
  have hout : clockOutOfRange hours minutes = true := by
    simp only [isRender, decide_eq_false_iff_not] at h
    rw [clockOutOfRange_iff]
    omega
  simp [exec, execRenderClock, hout]

/-! ### What a step can do -/

theorem takeCommand_inv (rest : List Issued) (h : s.Inv) : (takeCommand rest s).Inv :=
  ⟨h.fb_wf, h.cache_coherent, h.frames_full⟩

theorem refuse_inv (reason : PortRefusal) (h : s.Inv) : (refuse reason s).Inv :=
  ⟨h.fb_wf, h.cache_coherent, h.frames_full⟩

theorem step_idle (h : s.pending = []) : step s = .next s := by
  simp [step, h]

theorem step_refused {c : Issued} {rest : List Issued} {reason : PortRefusal} (h : s.pending = c :: rest)
    (hc : c.overlapping = false) (hd : decode c.frame = .error reason) :
    step s = .next (refuse reason (takeCommand rest s)) := by
  simp [step, h, hc, hd]

theorem step_decoded {c : Issued} {rest : List Issued} (h : s.pending = c :: rest)
    (hc : c.overlapping = false) (hd : decode c.frame = .ok i) : step s = exec i (takeCommand rest s) := by
  simp [step, h, hc, hd]

theorem step_overlapping {c : Issued} {rest : List Issued} (h : s.pending = c :: rest)
    (hc : c.overlapping = true) : step s = .refused .reentrant := by
  simp [step, h, hc]

/-- Everything a step that answers a next state can do: idle, refuse the frame, or perform its command. -/
theorem step_cases (h : step s = .next t) :
    (s.pending = [] ∧ t = s) ∨ ∃ c rest, s.pending = c :: rest ∧ c.overlapping = false ∧
      ((∃ reason, decode c.frame = .error reason ∧ t = refuse reason (takeCommand rest s)) ∨
        ∃ i, decode c.frame = .ok i ∧ exec i (takeCommand rest s) = .next t) := by
  cases hp : s.pending with
  | nil =>
    rw [step_idle hp] at h
    exact .inl ⟨rfl, (Host.Outcome.next.inj h).symm⟩
  | cons c rest =>
    cases hc : c.overlapping with
    | true =>
      rw [step_overlapping hp hc] at h
      cases h
    | false =>
      refine .inr ⟨c, rest, rfl, hc, ?_⟩
      cases hd : decode c.frame with
      | error reason =>
        rw [step_refused hp hc hd] at h
        exact .inl ⟨reason, rfl, (Host.Outcome.next.inj h).symm⟩
      | ok i =>
        rw [step_decoded hp hc hd] at h
        exact .inr ⟨i, rfl, h⟩

/-! ### The same command from another coherent cache (R28) -/

/-- A command that neither renders nor resolves does the same whatever CACHE holds. -/
theorem exec_ignores_cache (hr : isRender i = false) (hq : ∀ text, i ≠ .resolve text) (c : Cache)
    (he : exec i s = .next t) : exec i { s with cache := c } = .next { t with cache := c } := by
  cases i with
  | resolve text => exact absurd rfl (hq text)
  | renderSolid | renderVGrad | renderHGrad | renderCycle => simp [isRender] at hr
  | renderClock =>
    rw [exec_renderClock_refused hr] at he ⊢
    obtain rfl := Host.Outcome.next.inj he
    rfl
  | glyphAt k =>
    simp only [exec, execGlyphAt] at he ⊢
    split at he <;> (obtain rfl := Host.Outcome.next.inj he; rfl)
  | _ =>
    obtain rfl := Host.Outcome.next.inj he
    rfl

theorem resolveCodes_cache_irrelevant {c : Cache} (h : s.cacheCoherent)
    (hc : State.cacheCoherent { s with cache := c }) :
    resolveCodes text { s with cache := c } = resolveCodes text s :=
  (resolveCodes_of_cacheCoherent hc).trans (resolveCodes_of_cacheCoherent h).symm

theorem execResolve_cache_irrelevant {c : Cache} (h : s.cacheCoherent)
    (hc : State.cacheCoherent { s with cache := c }) (he : execResolve text s = .next t) :
    ∃ t', execResolve text { s with cache := c } = .next t' ∧ { t' with cache := t.cache } = t := by
  obtain rfl := Host.Outcome.next.inj he
  refine ⟨_, rfl, ?_⟩
  rw [resolveCodes_cache_irrelevant h hc, resolveState_eq text s, resolveState_eq text { s with cache := c }]
  rfl

theorem renderCommon_cache_irrelevant {c : Cache} (h : s.cacheCoherent)
    (hc : State.cacheCoherent { s with cache := c }) (he : renderCommon text onColor s = .ok t) :
    ∃ t', renderCommon text onColor { s with cache := c } = .ok t' ∧ { t' with cache := t.cache } = t := by
  obtain hready | hready := Bool.eq_false_or_eq_true s.ready
  · rw [renderCommon_ready onColor hready] at he
    obtain rfl := Except.ok.inj he
    refine ⟨_, renderCommon_ready onColor hready, ?_⟩
    rw [resolveCodes_cache_irrelevant h hc]
    rfl
  · rw [renderCommon_unready onColor hready] at he
    obtain rfl := Except.ok.inj he
    exact ⟨_, renderCommon_unready onColor hready, rfl⟩

/-- A command does the same from either of two coherent caches: what it leaves differs in CACHE alone. -/
theorem exec_cache_irrelevant {c : Cache} (h : s.cacheCoherent) (hc : State.cacheCoherent { s with cache := c })
    (he : exec i s = .next t) :
    ∃ t', exec i { s with cache := c } = .next t' ∧ { t' with cache := t.cache } = t := by
  cases hr : isRender i with
  | true =>
    obtain ⟨text, onColor, hexec⟩ := exec_render s.cfg hr
    rw [hexec s rfl] at he
    rw [hexec { s with cache := c } rfl]
    cases hrun : renderCommon text onColor s with
    | error f => exact absurd hrun (renderCommon_ne_error onColor f)
    | ok u =>
      rw [hrun] at he
      obtain rfl := Host.Outcome.next.inj he
      obtain ⟨t', hrun', hsame⟩ := renderCommon_cache_irrelevant h hc hrun
      exact ⟨t', by rw [hrun', toOutcome_ok], hsame⟩
  | false =>
    by_cases hq : ∃ text, i = .resolve text
    · obtain ⟨text, rfl⟩ := hq
      exact execResolve_cache_irrelevant h hc he
    · exact ⟨_, exec_ignores_cache hr (fun text hi => hq ⟨text, hi⟩) c he, rfl⟩

theorem step_cacheCoherent (h : s.cacheCoherent) (hs : step s = .next t) : t.cacheCoherent := by
  obtain ⟨-, rfl⟩ | ⟨c, rest, -, -, ⟨reason, -, rfl⟩ | ⟨i, -, he⟩⟩ := step_cases hs
  · exact h
  · exact h
  · exact exec_cacheCoherent (s := takeCommand rest s) h he

/-- A step does the same from either of two coherent caches. -/
theorem step_cache_irrelevant {c : Cache} (h : s.cacheCoherent) (hc : State.cacheCoherent { s with cache := c })
    (hs : step s = .next t) :
    ∃ t', step { s with cache := c } = .next t' ∧ { t' with cache := t.cache } = t := by
  obtain ⟨hp, rfl⟩ | ⟨cmd, rest, hp, ho, ⟨reason, hd, rfl⟩ | ⟨i, hd, he⟩⟩ := step_cases hs
  · exact ⟨_, step_idle hp, rfl⟩
  · exact ⟨_, step_refused hp ho hd, rfl⟩
  · rw [step_decoded (s := { s with cache := c }) hp ho hd]
    exact exec_cache_irrelevant (s := takeCommand rest s) h hc he

end Sys2Proof.Machine

namespace Sys2Proof.Machine

/-! ### The statements of 10_state -/

/-- Settles O16: legality is kept by a command (`exec_inv`), and idling and refusing touch nothing it speaks of. -/
theorem stepKeepsLegalStates : Obligations.StepKeepsLegalStates := by
  intro s t h hs
  obtain ⟨-, rfl⟩ | ⟨c, rest, -, -, ⟨reason, -, rfl⟩ | ⟨i, -, he⟩⟩ := step_cases hs
  · exact h
  · exact refuse_inv reason (takeCommand_inv rest h)
  · exact exec_inv (takeCommand_inv rest h) he

/-- Settles O49: both caches answer every text with the pure result, so a step cannot tell them apart. -/
theorem cacheCannotBeObserved : Obligations.CacheCannotBeObserved := by
  intro s t c h hc hs
  obtain ⟨t', hs', hsame⟩ := step_cache_irrelevant h hc hs
  exact ⟨t', hs', hsame, step_cacheCoherent h hs, step_cacheCoherent hc hs'⟩

/-- Settles O17, by what a step can do. -/
theorem noCommandWritesTheTables : Obligations.NoCommandWritesTheTables := by
  refine ⟨fun i s t he => exec_cfg he, fun s t hs => ?_, create_cfg⟩
  obtain ⟨-, rfl⟩ | ⟨c, rest, -, -, ⟨reason, -, rfl⟩ | ⟨i, -, he⟩⟩ := step_cases hs
  · rfl
  · rfl
  · exact (exec_cfg he).trans (takeCommand_cfg rest s)

/-- Settles O19, command by command; the renders write no register (`exec_render_registers`). -/
theorem registersChangeOnlyByTheirCommands : Obligations.RegistersChangeOnlyByTheirCommands := by
  intro i s t he
  cases i with
  | renderSolid | renderVGrad | renderHGrad | renderCycle => exact exec_render_registers rfl he
  | renderClock hours minutes seconds colorH colorM =>
    cases hr : isRender (.renderClock hours minutes seconds colorH colorM) with
    | true => exact exec_render_registers hr he
    | false =>
      rw [exec_renderClock_refused hr] at he
      obtain rfl := Host.Outcome.next.inj he
      exact ⟨rfl, rfl, rfl⟩
  | glyphAt k =>
    simp only [exec, execGlyphAt] at he
    split at he <;> (obtain rfl := Host.Outcome.next.inj he; exact ⟨rfl, rfl, rfl⟩)
  | resolve text =>
    obtain rfl := Host.Outcome.next.inj he
    exact ⟨by simp, by simp, by simp⟩
  | _ =>
    obtain rfl := Host.Outcome.next.inj he
    exact ⟨rfl, rfl, rfl⟩

/-- Settles O18; that no command clears READY is read off O19. -/
theorem readyFlagRule : Obligations.ReadyFlagRule := by
  refine ⟨create_ready, fun b s => ⟨_, rfl, rfl⟩, fun i s t he h => ?_, fun i s => exec_render_unready,
    fun s => ⟨_, rfl, rfl⟩⟩
  obtain ⟨hready, -, -⟩ := registersChangeOnlyByTheirCommands i s t he
  rw [hready]
  split
  · rfl
  · exact h

/-- Settles O48: a resolved text is a hit, and a hit on a coherent cache is the pure result. -/
theorem resolveIsAPureMemoization : Obligations.ResolveIsAPureMemoization := by
  intro text s h
  have hpure := resolveCodes_of_cacheCoherent (text := text) h
  have hcoherent := resolveState_cacheCoherent (text := text) h
  refine ⟨hpure, hcoherent, resolveState_of_cacheHit (cacheHit_resolveState text s), ?_⟩
  rw [resolveCodes_of_cacheCoherent hcoherent, hpure, resolveState_cfg, resolveState_forceUpper]

end Sys2Proof.Machine

/-! SUPPORT. What the statements of 20_memory rest on: what a command adds to the two output logs and to the refusal
mark, by the kind of the command. -/

namespace Sys2Proof.Machine

variable {i : Instr} {s t : State}

/-! ### What a command adds to the logs and to the mark (R33, R58, R243) -/

/-- What the two output logs and the refusal mark held in `s` is where they begin in `t`. -/
structure LogsExtend (s t : State) : Prop where
  emitted : s.emitted <+: t.emitted
  responses : s.responses <+: t.responses
  refusals : s.refusals <+: t.refusals

theorem LogsExtend.refl (s : State) : LogsExtend s s :=
  ⟨List.prefix_rfl, List.prefix_rfl, List.prefix_rfl⟩

/-- Taking a command from the host's list touches neither log nor the mark. -/
theorem LogsExtend.of_takeCommand {rest : List Issued} (h : LogsExtend (takeCommand rest s) t) : LogsExtend s t :=
  ⟨h.emitted, h.responses, h.refusals⟩

theorem logsExtend_refuse (reason : PortRefusal) (s : State) : LogsExtend s (refuse reason s) :=
  ⟨List.prefix_rfl, List.prefix_rfl, List.prefix_append _ _⟩

/-- A render adds at most a frame. -/
theorem exec_render_logs (h : isRender i = true) (he : exec i s = .next t) :
    (t.emitted = s.emitted ∨ ∃ frame, t.emitted = s.emitted ++ [frame]) ∧
      t.responses = s.responses ∧ t.refusals = s.refusals := by
  obtain rfl | ⟨_, frame, _, rfl, -, -⟩ := exec_render_cases h he
  · exact ⟨.inl rfl, rfl, rfl⟩
  · exact ⟨.inr ⟨frame, rfl⟩, rfl, rfl⟩

/-- A query adds one response, and neither a frame nor a mark (R78). -/
theorem exec_query_logs (h : isQuery i = true) (he : exec i s = .next t) :
    t.emitted = s.emitted ∧ (∃ bytes, t.responses = s.responses ++ [bytes]) ∧ t.refusals = s.refusals := by
  cases i with
  | begin | setBrightness | setForceUppercase | renderSolid | renderVGrad | renderHGrad | renderCycle | renderClock =>
    simp [isQuery] at h
  | glyphAt k =>
    simp only [exec, execGlyphAt] at he
    split at he <;> (obtain rfl := Host.Outcome.next.inj he; exact ⟨rfl, ⟨_, rfl⟩, rfl⟩)
  | resolve text =>
    obtain rfl := Host.Outcome.next.inj he
    rw [resolveState_eq]
    exact ⟨rfl, ⟨_, rfl⟩, rfl⟩
  | _ =>
    obtain rfl := Host.Outcome.next.inj he
    exact ⟨rfl, ⟨_, rfl⟩, rfl⟩

/-- A command that neither renders nor queries writes registers, or is a clock that is refused (R194). -/
theorem exec_silent_logs (hr : isRender i = false) (hq : isQuery i = false) (he : exec i s = .next t) :
    t.emitted = s.emitted ∧ t.responses = s.responses ∧
      (t.refusals = s.refusals ∨ t.refusals = s.refusals ++ [.clockFieldRange]) := by
  cases i with
  | begin | setBrightness | setForceUppercase =>
    obtain rfl := Host.Outcome.next.inj he
    exact ⟨rfl, rfl, .inl rfl⟩
  | renderClock =>
    rw [exec_renderClock_refused hr] at he
    obtain rfl := Host.Outcome.next.inj he
    exact ⟨rfl, rfl, .inr rfl⟩
  | renderSolid | renderVGrad | renderHGrad | renderCycle => simp [isRender] at hr
  | _ => simp [isQuery] at hq

theorem exec_logsExtend (he : exec i s = .next t) : LogsExtend s t := by
  cases hr : isRender i with
  | true =>
    obtain ⟨hemitted | ⟨frame, hemitted⟩, hresponses, hrefusals⟩ := exec_render_logs hr he <;>
      constructor <;> simp [hemitted, hresponses, hrefusals]
  | false =>
    cases hq : isQuery i with
    | true =>
      obtain ⟨hemitted, ⟨bytes, hresponses⟩, hrefusals⟩ := exec_query_logs hq he
      constructor <;> simp [hemitted, hresponses, hrefusals]
    | false =>
      obtain ⟨hemitted, hresponses, hrefusals | hrefusals⟩ := exec_silent_logs hr hq he <;>
        constructor <;> simp [hemitted, hresponses, hrefusals]

/-- Idling adds nothing, a refused frame adds its mark, and a command extends what it finds. -/
theorem step_logsExtend (hs : step s = .next t) : LogsExtend s t := by
  obtain ⟨-, rfl⟩ | ⟨c, rest, -, -, ⟨reason, -, rfl⟩ | ⟨i, -, he⟩⟩ := step_cases hs
  · exact .refl _
  · exact .of_takeCommand (logsExtend_refuse reason (takeCommand rest s))
  · exact .of_takeCommand (exec_logsExtend he)

end Sys2Proof.Machine

namespace Sys2Proof.Machine

/-! ### The statements of 20_memory -/

/-- Settles O22: a step extends both logs and the mark (`step_logsExtend`). -/
theorem logsAndMarkOnlyGrow : Obligations.LogsAndMarkOnlyGrow := by
  intro s t hs
  obtain ⟨hemitted, hresponses, hrefusals⟩ := step_logsExtend hs
  exact ⟨hemitted, hresponses, hrefusals⟩

/-- Settles O1: it is the step's branch for a frame that decodes. -/
theorem stepPerformsDecodedCommand : Obligations.StepPerformsDecodedCommand :=
  fun _ _ _ _ hpending hdecode => step_decoded hpending rfl hdecode

end Sys2Proof.Machine

/-! SUPPORT. What the statements of 30_encoding rest on. The frame side: each operand reader accepts exactly its
operand's encoding and each layout exactly its operands' encodings in a row, so a frame decodes to a command exactly
when it is the frame of that well-formed command. The refusals: which opcodes have no reader, and on which operand
bytes a reader fails. -/

namespace Sys2Proof

variable {op : Byte} {bs : ByteString} {i : Instr} {read : ByteString → Option Instr}

/-! ### What each operand reader accepts (R72) -/

theorem encodeU16_hueOfBytes (b0 b1 : Byte) : encodeU16 (hueOfBytes b0 b1) = [b0, b1] := by
  have high : (hueOfBytes b0 b1 >>> 8).setWidth 8 = b0 := by
    ext k hk
    have h16 : k < 16 := by omega
    have h8 : 8 + k < 16 := by omega
    simp [hueOfBytes, hk, h16, h8]
  have low : (hueOfBytes b0 b1).setWidth 8 = b1 := by
    ext k hk
    simp [hueOfBytes]
  rw [encodeU16, high, low]

theorem encodeColor_colorOfBytes (b0 b1 b2 : Byte) : encodeColor (colorOfBytes b0 b1 b2) = [b0, b1, b2] := by
  have high : (colorOfBytes b0 b1 b2 >>> 16).setWidth 8 = b0 := by
    ext k hk
    have h24 : k < 24 := by omega
    have h16 : 16 + k < 24 := by omega
    have hmiddle : b1.getLsbD (16 + k - 8) = false := BitVec.getLsbD_of_ge _ _ (by omega)
    have hlow : b2.getLsbD (16 + k) = false := BitVec.getLsbD_of_ge _ _ (by omega)
    simp [colorOfBytes, hk, h24, h16, hmiddle, hlow]
  have middle : (colorOfBytes b0 b1 b2 >>> 8).setWidth 8 = b1 := by
    ext k hk
    have h24 : k < 24 := by omega
    have h8 : 8 + k < 24 := by omega
    have hhigh : 8 + k < 16 := by omega
    simp [colorOfBytes, hk, h24, h8, hhigh]
  have low : (colorOfBytes b0 b1 b2).setWidth 8 = b2 := by
    ext k hk
    simp [colorOfBytes]
  rw [encodeColor, high, middle, low]

theorem takeU8_eq_some_iff {b : Byte} {rest : ByteString} : takeU8 bs = some (b, rest) ↔ bs = b :: rest := by
  cases bs with
  | nil => simp [takeU8]
  | cons c bs => simp

theorem takeBool_eq_some_iff {b : Bool} {rest : ByteString} :
    takeBool bs = some (b, rest) ↔ bs = encodeBool b ++ rest := by
  constructor
  · intro h
    cases bs with
    | nil => simp [takeBool] at h
    | cons c bs =>
      simp only [takeBool] at h
      split at h
      next hc => obtain ⟨rfl, rfl⟩ := Prod.mk.inj (Option.some.inj h); rw [hc]; rfl
      next =>
        split at h
        next hc => obtain ⟨rfl, rfl⟩ := Prod.mk.inj (Option.some.inj h); rw [hc]; rfl
        next => cases h
  · rintro rfl
    exact takeBool_encode b rest

theorem takeU16_eq_some_iff {v : Hue} {rest : ByteString} :
    takeU16 bs = some (v, rest) ↔ bs = encodeU16 v ++ rest := by
  constructor
  · intro h
    match bs with
    | [] | [_] => cases h
    | b0 :: b1 :: bs =>
      obtain ⟨rfl, rfl⟩ := Prod.mk.inj (Option.some.inj h)
      rw [encodeU16_hueOfBytes]; rfl
  · rintro rfl
    exact takeU16_encode v rest

theorem takeColor_eq_some_iff {c : Color} {rest : ByteString} :
    takeColor bs = some (c, rest) ↔ bs = encodeColor c ++ rest := by
  constructor
  · intro h
    match bs with
    | [] | [_] | [_, _] => cases h
    | b0 :: b1 :: b2 :: bs =>
      obtain ⟨rfl, rfl⟩ := Prod.mk.inj (Option.some.inj h)
      rw [encodeColor_colorOfBytes]; rfl
  · rintro rfl
    exact takeColor_encode c rest

theorem takeText_eq_some_iff {t : Text} {rest : ByteString} :
    takeText bs = some (t, rest) ↔ textFits t = true ∧ bs = encodeText t ++ rest := by
  constructor
  · intro h
    cases bs with
    | nil => cases h
    | cons b bs =>
      simp only [takeText] at h
      split at h
      next hle =>
        obtain ⟨rfl, rfl⟩ := Prod.mk.inj (Option.some.inj h)
        have hlen : (bs.take b.toNat).length = b.toNat := List.length_take_of_le hle
        have hlt := b.isLt
        exact ⟨by simp only [textFits, hlen, decide_eq_true_eq]; omega, by simp [encodeText, hlen]⟩
      next => cases h
  · rintro ⟨hfits, rfl⟩
    exact takeText_encode hfits rest

theorem endOfFrame_eq_some_iff {j : Instr} : endOfFrame j bs = some i ↔ bs = [] ∧ j = i := by
  cases bs <;> simp [endOfFrame]

/-! ### What each layout accepts (R73): the encodings of its operands, in frame order, and nothing after them -/

theorem readU8_eq_some_iff {mk : Byte → Instr} : readU8 mk bs = some i ↔ ∃ x, bs = [x] ∧ mk x = i := by
  simp [readU8, Option.bind_eq_some_iff, takeU8_eq_some_iff, endOfFrame_eq_some_iff]

theorem readU8U8_eq_some_iff {mk : Byte → Byte → Instr} :
    readU8U8 mk bs = some i ↔ ∃ x y, bs = [x, y] ∧ mk x y = i := by
  simp [readU8U8, Option.bind_eq_some_iff, takeU8_eq_some_iff, readU8_eq_some_iff]

theorem readU8U8U8_eq_some_iff {mk : Byte → Byte → Byte → Instr} :
    readU8U8U8 mk bs = some i ↔ ∃ x y z, bs = [x, y, z] ∧ mk x y z = i := by
  simp [readU8U8U8, Option.bind_eq_some_iff, takeU8_eq_some_iff, readU8U8_eq_some_iff]

theorem readBool_eq_some_iff {mk : Bool → Instr} :
    readBool mk bs = some i ↔ ∃ b, bs = encodeBool b ∧ mk b = i := by
  simp only [readBool, Option.bind_eq_some_iff, takeBool_eq_some_iff, endOfFrame_eq_some_iff, Prod.exists]
  simp

theorem readU8Bool_eq_some_iff {mk : Byte → Bool → Instr} :
    readU8Bool mk bs = some i ↔ ∃ x b, bs = x :: encodeBool b ∧ mk x b = i := by
  simp only [readU8Bool, Option.bind_eq_some_iff, takeU8_eq_some_iff, readBool_eq_some_iff, Prod.exists]
  constructor
  · rintro ⟨x, _, rfl, b, rfl, hi⟩
    exact ⟨x, b, rfl, hi⟩
  · rintro ⟨x, b, rfl, hi⟩
    exact ⟨x, _, rfl, b, rfl, hi⟩

theorem readU16U8U8_eq_some_iff {mk : Hue → Byte → Byte → Instr} :
    readU16U8U8 mk bs = some i ↔ ∃ v x y, bs = encodeU16 v ++ [x, y] ∧ mk v x y = i := by
  simp [readU16U8U8, Option.bind_eq_some_iff, takeU16_eq_some_iff, readU8U8_eq_some_iff]

theorem readColor_eq_some_iff {mk : Color → Instr} :
    readColor mk bs = some i ↔ ∃ c, bs = encodeColor c ∧ mk c = i := by
  simp [readColor, Option.bind_eq_some_iff, takeColor_eq_some_iff, endOfFrame_eq_some_iff]

theorem readColorColor_eq_some_iff {mk : Color → Color → Instr} :
    readColorColor mk bs = some i ↔ ∃ a b, bs = encodeColor a ++ encodeColor b ∧ mk a b = i := by
  simp [readColorColor, Option.bind_eq_some_iff, takeColor_eq_some_iff, readColor_eq_some_iff]

theorem readText_eq_some_iff {mk : Text → Instr} :
    readText mk bs = some i ↔ ∃ t, textFits t = true ∧ bs = encodeText t ∧ mk t = i := by
  simp [readText, Option.bind_eq_some_iff, takeText_eq_some_iff, endOfFrame_eq_some_iff, and_assoc]

theorem readTextColor_eq_some_iff {mk : Text → Color → Instr} :
    readTextColor mk bs = some i ↔ ∃ t c, textFits t = true ∧ bs = encodeText t ++ encodeColor c ∧ mk t c = i := by
  simp [readTextColor, Option.bind_eq_some_iff, takeText_eq_some_iff, readColor_eq_some_iff, and_assoc]

theorem readTextColorColor_eq_some_iff {mk : Text → Color → Color → Instr} :
    readTextColorColor mk bs = some i ↔
      ∃ t a b, textFits t = true ∧ bs = encodeText t ++ (encodeColor a ++ encodeColor b) ∧ mk t a b = i := by
  simp [readTextColorColor, Option.bind_eq_some_iff, takeText_eq_some_iff, readColorColor_eq_some_iff, and_assoc]

theorem readTextU8_eq_some_iff {mk : Text → Byte → Instr} :
    readTextU8 mk bs = some i ↔ ∃ t x, textFits t = true ∧ bs = encodeText t ++ [x] ∧ mk t x = i := by
  simp [readTextU8, Option.bind_eq_some_iff, takeText_eq_some_iff, readU8_eq_some_iff, and_assoc]

theorem readClock_eq_some_iff {mk : Byte → Byte → Byte → Color → Color → Instr} :
    readClock mk bs = some i ↔
      ∃ x y z a b, bs = x :: y :: z :: (encodeColor a ++ encodeColor b) ∧ mk x y z a b = i := by
  simp [readClock, Option.bind_eq_some_iff, takeU8_eq_some_iff, readColorColor_eq_some_iff]

/-! ### A frame and its reader (R74, R75, R244) -/

theorem decode_cons_ok_iff : decode (op :: bs) = .ok i ↔ ∃ read, operandReader op = some read ∧ read bs = some i := by
  cases hop : operandReader op with
  | none => simp [decode, hop]
  | some read => cases hread : read bs <;> simp [decode, hop, hread]

theorem decode_cons_illegal_iff : decode (op :: bs) = .error .illegalOpcode ↔ operandReader op = none := by
  cases hop : operandReader op with
  | none => simp [decode, hop]
  | some read => cases hread : read bs <;> simp [decode, hop, hread]

theorem decode_cons_malformed_iff :
    decode (op :: bs) = .error .malformedFrame ↔ ∃ read, operandReader op = some read ∧ read bs = none := by
  cases hop : operandReader op with
  | none => simp [decode, hop]
  | some read => cases hread : read bs <;> simp [decode, hop, hread]

/-! ### Decoding and encoding are inverse -/

/-- Row by row of R73: what a row's reader accepts are the operand bytes of the row's command. -/
theorem encode_of_operandReader (hop : operandReader op = some read) (hread : read bs = some i) :
    wellFormed i = true ∧ encode i = op :: bs := by
  unfold operandReader at hop
  split at hop
  case h_22 => cases hop
  all_goals obtain rfl := Option.some.inj hop
  -- U8: BEGIN, SET_BRIGHTNESS, GLYPH_AT, GAMMA, WHEEL
  case h_1 | h_2 | h_6 | h_18 | h_19 =>
    obtain ⟨x, rfl, rfl⟩ := readU8_eq_some_iff.1 hread
    exact ⟨rfl, rfl⟩
  -- BOOL: SET_FORCE_UPPERCASE
  case h_3 =>
    obtain ⟨u, rfl, rfl⟩ := readBool_eq_some_iff.1 hread
    exact ⟨rfl, rfl⟩
  -- no operand: IS_READY, ALPHABET_SIZE
  case h_4 | h_5 =>
    obtain ⟨rfl, rfl⟩ := endOfFrame_eq_some_iff.1 hread
    exact ⟨rfl, rfl⟩
  -- TEXT COLOR: RENDER_SOLID
  case h_7 =>
    obtain ⟨t, c, hfits, rfl, rfl⟩ := readTextColor_eq_some_iff.1 hread
    exact ⟨hfits, rfl⟩
  -- TEXT COLOR COLOR: RENDER_VGRAD, RENDER_HGRAD
  case h_8 | h_9 =>
    obtain ⟨t, a, b, hfits, rfl, rfl⟩ := readTextColorColor_eq_some_iff.1 hread
    exact ⟨hfits, rfl⟩
  -- TEXT U8: RENDER_CYCLE
  case h_10 =>
    obtain ⟨t, x, hfits, rfl, rfl⟩ := readTextU8_eq_some_iff.1 hread
    exact ⟨hfits, rfl⟩
  -- U8 U8 U8 COLOR COLOR: RENDER_CLOCK
  case h_11 =>
    obtain ⟨x, y, z, a, b, rfl, rfl⟩ := readClock_eq_some_iff.1 hread
    exact ⟨rfl, rfl⟩
  -- U8 BOOL: LOOKUP
  case h_12 =>
    obtain ⟨x, u, rfl, rfl⟩ := readU8Bool_eq_some_iff.1 hread
    exact ⟨rfl, rfl⟩
  -- U8 U8 U8: PACK
  case h_13 =>
    obtain ⟨x, y, z, rfl, rfl⟩ := readU8U8U8_eq_some_iff.1 hread
    exact ⟨rfl, rfl⟩
  -- COLOR: UNPACK_RED, UNPACK_GREEN, UNPACK_BLUE
  case h_14 | h_15 | h_16 =>
    obtain ⟨c, rfl, rfl⟩ := readColor_eq_some_iff.1 hread
    exact ⟨rfl, rfl⟩
  -- U16 U8 U8: HSV_TO_RGB
  case h_17 =>
    obtain ⟨v, x, y, rfl, rfl⟩ := readU16U8U8_eq_some_iff.1 hread
    exact ⟨rfl, rfl⟩
  -- U8 U8: SCALE
  case h_20 =>
    obtain ⟨x, y, rfl, rfl⟩ := readU8U8_eq_some_iff.1 hread
    exact ⟨rfl, rfl⟩
  -- TEXT: RESOLVE
  case h_21 =>
    obtain ⟨t, hfits, rfl, rfl⟩ := readText_eq_some_iff.1 hread
    exact ⟨hfits, rfl⟩

/-- Command by command: the reader of the command's opcode accepts the command's operand bytes. -/
theorem decode_encode (h : wellFormed i = true) : decode (encode i) = .ok i := by
  refine decode_cons_ok_iff.2 ?_
  cases i with
  | begin | setBrightness | glyphAt | gamma | wheel => exact ⟨_, rfl, readU8_eq_some_iff.2 ⟨_, rfl, rfl⟩⟩
  | setForceUppercase => exact ⟨_, rfl, readBool_eq_some_iff.2 ⟨_, rfl, rfl⟩⟩
  | isReady | alphabetSize => exact ⟨_, rfl, endOfFrame_eq_some_iff.2 ⟨rfl, rfl⟩⟩
  | renderSolid => exact ⟨_, rfl, readTextColor_eq_some_iff.2 ⟨_, _, h, rfl, rfl⟩⟩
  | renderVGrad | renderHGrad => exact ⟨_, rfl, readTextColorColor_eq_some_iff.2 ⟨_, _, _, h, rfl, rfl⟩⟩
  | renderCycle => exact ⟨_, rfl, readTextU8_eq_some_iff.2 ⟨_, _, h, rfl, rfl⟩⟩
  | renderClock => exact ⟨_, rfl, readClock_eq_some_iff.2 ⟨_, _, _, _, _, rfl, rfl⟩⟩
  | lookup => exact ⟨_, rfl, readU8Bool_eq_some_iff.2 ⟨_, _, rfl, rfl⟩⟩
  | pack => exact ⟨_, rfl, readU8U8U8_eq_some_iff.2 ⟨_, _, _, rfl, rfl⟩⟩
  | unpackRed | unpackGreen | unpackBlue => exact ⟨_, rfl, readColor_eq_some_iff.2 ⟨_, rfl, rfl⟩⟩
  | hsvToRgb => exact ⟨_, rfl, readU16U8U8_eq_some_iff.2 ⟨_, _, _, rfl, rfl⟩⟩
  | scale => exact ⟨_, rfl, readU8U8_eq_some_iff.2 ⟨_, _, rfl, rfl⟩⟩
  | resolve => exact ⟨_, rfl, readText_eq_some_iff.2 ⟨_, h, rfl, rfl⟩⟩

/-- A frame stands for a command exactly when it is that well-formed command's frame. -/
theorem decode_ok_iff {frame : ByteString} : decode frame = .ok i ↔ wellFormed i = true ∧ encode i = frame := by
  constructor
  · intro h
    cases frame with
    | nil => cases h
    | cons op bs =>
      obtain ⟨read, hop, hread⟩ := decode_cons_ok_iff.1 h
      exact encode_of_operandReader hop hread
  · rintro ⟨hwf, rfl⟩
    exact decode_encode hwf

/-! ### The length scheme (R76) -/

theorem length_byte_of_textFits {t : Text} (h : textFits t = true) : (BitVec.ofNat 8 t.length).toNat = t.length := by
  have hle : t.length ≤ 255 := by simpa [textFits] using h
  exact Nat.mod_eq_of_lt (by omega)

theorem frameLength_text {n : Nat} {t : Text} (hop : frameLayout op = some (n, true)) (hfits : textFits t = true)
    (hhead : bs.headD 0 = BitVec.ofNat 8 t.length) (hlength : (op :: bs).length = t.length + n) :
    frameLength (op :: bs) = some (op :: bs).length := by
  simp only [frameLength, hop, Option.map_some, if_true, hhead, length_byte_of_textFits hfits, hlength, Nat.add_comm]

open Laws in
theorem frameLength_encode (h : wellFormed i = true) : frameLength (encode i) = some (encode i).length := by
  cases i with
  | renderSolid t c => exact frameLength_text rfl h rfl (EncodedLength.renderSolid t c)
  | renderVGrad t a b => exact frameLength_text rfl h rfl (EncodedLength.renderVGrad t a b)
  | renderHGrad t a b => exact frameLength_text rfl h rfl (EncodedLength.renderHGrad t a b)
  | renderCycle t o => exact frameLength_text rfl h rfl (EncodedLength.renderCycle t o)
  | resolve t => exact frameLength_text rfl h rfl (EncodedLength.resolve t)
  | _ => rfl

theorem decode_of_decodeTableWord {nbits w : Nat} (h : decodeTableWord nbits w = some i) :
    decode (tableFrame nbits w) = .ok i := by
  unfold decodeTableWord at h
  split at h
  next hd => rw [hd, Option.some.inj h]
  next => cases h

/-! ### Which opcodes have no reader, and on which operand bytes a reader fails (R74, R75) -/

theorem operandReader_isNone_iff : ∀ op : Byte, (operandReader op).isNone = true ↔
    op = 0x00 ∨ (0x07 ≤ op ∧ op ≤ 0x0F) ∨ (0x15 ≤ op ∧ op ≤ 0x1F) ∨ 0x2A ≤ op := by decide

theorem frameLayout_isNone : ∀ op : Byte, (frameLayout op).isNone = (operandReader op).isNone := by decide

/-- The reader fails exactly on operand bytes that are not `n` in number. -/
def ReadsExactly (n : Nat) (read : ByteString → Option Instr) : Prop :=
  ∀ bs, read bs = none ↔ bs.length ≠ n

/-- The reader of a layout that begins with a TEXT operand fails exactly on operand bytes that are not the length byte,
as many as it says, and `n` more. -/
def ReadsTextAnd (n : Nat) (read : ByteString → Option Instr) : Prop :=
  ∀ bs, read bs = none ↔ bs.length ≠ n + 1 + (bs.headD 0).toNat

section
variable {n : Nat}

theorem readsExactly_endOfFrame (i : Instr) : ReadsExactly 0 (endOfFrame i) := by
  intro bs
  cases bs <;> simp [endOfFrame]

theorem ReadsExactly.after_takeU8 {read : Byte → ByteString → Option Instr} (h : ∀ x, ReadsExactly n (read x)) :
    ReadsExactly (n + 1) fun bs => (takeU8 bs).bind fun (x, bs) => read x bs := by
  intro bs
  cases bs with
  | nil => simp [takeU8]
  | cons b bs => simpa using h b bs

theorem ReadsExactly.after_takeU16 {read : Hue → ByteString → Option Instr} (h : ∀ x, ReadsExactly n (read x)) :
    ReadsExactly (n + 2) fun bs => (takeU16 bs).bind fun (x, bs) => read x bs := by
  intro bs
  match bs with
  | [] | [_] => simp [takeU16]
  | b0 :: b1 :: bs => simpa [takeU16] using h (hueOfBytes b0 b1) bs

theorem ReadsExactly.after_takeColor {read : Color → ByteString → Option Instr} (h : ∀ x, ReadsExactly n (read x)) :
    ReadsExactly (n + 3) fun bs => (takeColor bs).bind fun (x, bs) => read x bs := by
  intro bs
  match bs with
  | [] | [_] | [_, _] => simp [takeColor]
  | b0 :: b1 :: b2 :: bs => simpa [takeColor] using h (colorOfBytes b0 b1 b2) bs

theorem ReadsTextAnd.after_takeText {read : Text → ByteString → Option Instr} (h : ∀ x, ReadsExactly n (read x)) :
    ReadsTextAnd n fun bs => (takeText bs).bind fun (x, bs) => read x bs := by
  intro bs
  cases bs with
  | nil => simp [takeText]
  | cons b bs =>
    by_cases hle : b.toNat ≤ bs.length
    · have hrest := h (bs.take b.toNat) (bs.drop b.toNat)
      simp only [takeText, hle, if_true, Option.bind_some, hrest, List.length_drop, List.headD_cons,
        List.length_cons]
      omega
    · simp only [takeText, hle, if_false, Option.bind_none, List.headD_cons, List.length_cons, true_iff]
      omega

theorem readsExactly_readU8 (mk : Byte → Instr) : ReadsExactly 1 (readU8 mk) :=
  .after_takeU8 fun x => readsExactly_endOfFrame (mk x)

theorem readsExactly_readU8U8 (mk : Byte → Byte → Instr) : ReadsExactly 2 (readU8U8 mk) :=
  .after_takeU8 fun x => readsExactly_readU8 (mk x)

theorem readsExactly_readU8U8U8 (mk : Byte → Byte → Byte → Instr) : ReadsExactly 3 (readU8U8U8 mk) :=
  .after_takeU8 fun x => readsExactly_readU8U8 (mk x)

theorem readsExactly_readU16U8U8 (mk : Hue → Byte → Byte → Instr) : ReadsExactly 4 (readU16U8U8 mk) :=
  .after_takeU16 fun x => readsExactly_readU8U8 (mk x)

theorem readsExactly_readColor (mk : Color → Instr) : ReadsExactly 3 (readColor mk) :=
  .after_takeColor fun x => readsExactly_endOfFrame (mk x)

theorem readsExactly_readColorColor (mk : Color → Color → Instr) : ReadsExactly 6 (readColorColor mk) :=
  .after_takeColor fun x => readsExactly_readColor (mk x)

theorem readsExactly_readClock (mk : Byte → Byte → Byte → Color → Color → Instr) : ReadsExactly 9 (readClock mk) :=
  .after_takeU8 fun x => .after_takeU8 fun y => .after_takeU8 fun z => readsExactly_readColorColor (mk x y z)

theorem readsTextAnd_readText (mk : Text → Instr) : ReadsTextAnd 0 (readText mk) :=
  .after_takeText fun x => readsExactly_endOfFrame (mk x)

theorem readsTextAnd_readTextColor (mk : Text → Color → Instr) : ReadsTextAnd 3 (readTextColor mk) :=
  .after_takeText fun x => readsExactly_readColor (mk x)

theorem readsTextAnd_readTextColorColor (mk : Text → Color → Color → Instr) :
    ReadsTextAnd 6 (readTextColorColor mk) :=
  .after_takeText fun x => readsExactly_readColorColor (mk x)

theorem readsTextAnd_readTextU8 (mk : Text → Byte → Instr) : ReadsTextAnd 1 (readTextU8 mk) :=
  .after_takeText fun x => readsExactly_readU8 (mk x)

/-- A BOOL operand is one byte, and one of two (R72). -/
theorem readBool_eq_none_iff {mk : Bool → Instr} :
    readBool mk bs = none ↔ bs.length ≠ 1 ∨ ∃ b, bs = [b] ∧ b ≠ 0x00 ∧ b ≠ 0x01 := by
  cases bs with
  | nil => simp [readBool, takeBool]
  | cons b rest =>
    by_cases hbool : b = 0x00 ∨ b = 0x01
    · obtain rfl | rfl := hbool <;> cases rest <;> simp [readBool, takeBool, endOfFrame]
    · obtain ⟨h0, h1⟩ := not_or.1 hbool
      have hread : readBool mk (b :: rest) = none := by
        simp only [readBool, takeBool, h0, h1, if_false, Option.bind_none]
      cases rest with
      | nil => exact iff_of_true hread (.inr ⟨b, rfl, h0, h1⟩)
      | cons => exact iff_of_true hread (.inl (by simp))

theorem readU8Bool_eq_none_iff {mk : Byte → Bool → Instr} :
    readU8Bool mk bs = none ↔ bs.length ≠ 2 ∨ ∃ ch b, bs = [ch, b] ∧ b ≠ 0x00 ∧ b ≠ 0x01 := by
  cases bs with
  | nil => simp [readU8Bool, takeU8]
  | cons ch bs => simp [readU8Bool, readBool_eq_none_iff]

/-! ### The same in the length scheme's terms -/

theorem frameLength_wrong_iff (hop : frameLayout op = some (n + 1, false)) :
    (∃ m, frameLength (op :: bs) = some m ∧ m ≠ bs.length + 1) ↔ bs.length ≠ n := by
  simp only [frameLength, hop, Option.map_some, Bool.false_eq_true, if_false, Option.some.injEq, exists_eq_left']
  omega

theorem frameLength_text_wrong_iff (hop : frameLayout op = some (n + 2, true)) :
    (∃ m, frameLength (op :: bs) = some m ∧ m ≠ bs.length + 1) ↔ bs.length ≠ n + 1 + (bs.headD 0).toNat := by
  simp only [frameLength, hop, Option.map_some, if_true, Option.some.injEq, exists_eq_left']
  omega

theorem ReadsExactly.eq_none_iff (h : ReadsExactly n read) (hop : frameLayout op = some (n + 1, false)) :
    read bs = none ↔ ∃ m, frameLength (op :: bs) = some m ∧ m ≠ bs.length + 1 :=
  (h bs).trans (frameLength_wrong_iff hop).symm

theorem ReadsTextAnd.eq_none_iff (h : ReadsTextAnd n read) (hop : frameLayout op = some (n + 2, true)) :
    read bs = none ↔ ∃ m, frameLength (op :: bs) = some m ∧ m ≠ bs.length + 1 :=
  (h bs).trans (frameLength_text_wrong_iff hop).symm

end

/-- Row by row of R73: but for the two rows with a BOOL operand, a reader fails for the frame's length alone. -/
theorem read_eq_none_iff (hop : operandReader op = some read) (h3 : op ≠ 0x03) (h20 : op ≠ 0x20) :
    read bs = none ↔ ∃ n, frameLength (op :: bs) = some n ∧ n ≠ bs.length + 1 := by
  unfold operandReader at hop
  split at hop
  case h_22 => cases hop
  all_goals obtain rfl := Option.some.inj hop
  case h_1 | h_2 | h_6 | h_18 | h_19 => exact (readsExactly_readU8 _).eq_none_iff rfl
  case h_3 => exact absurd rfl h3
  case h_4 | h_5 => exact (readsExactly_endOfFrame _).eq_none_iff rfl
  case h_7 => exact (readsTextAnd_readTextColor _).eq_none_iff rfl
  case h_8 | h_9 => exact (readsTextAnd_readTextColorColor _).eq_none_iff rfl
  case h_10 => exact (readsTextAnd_readTextU8 _).eq_none_iff rfl
  case h_11 => exact (readsExactly_readClock _).eq_none_iff rfl
  case h_12 => exact absurd rfl h20
  case h_13 => exact (readsExactly_readU8U8U8 _).eq_none_iff rfl
  case h_14 | h_15 | h_16 => exact (readsExactly_readColor _).eq_none_iff rfl
  case h_17 => exact (readsExactly_readU16U8U8 _).eq_none_iff rfl
  case h_20 => exact (readsExactly_readU8U8 _).eq_none_iff rfl
  case h_21 => exact (readsTextAnd_readText _).eq_none_iff rfl

end Sys2Proof

namespace Sys2Proof.Machine

/-! ### The written form of a command read back (R79) -/

variable {ty ty' : OperandType} {tys : List OperandType} {row : AsmRow} {w bs bs' line : ByteString} {i : Instr}

/-- The written operand `w` is read as its frame bytes `bs`, before whatever may follow it in a line. -/
def ReadsBack (ty : OperandType) (w bs : ByteString) : Prop :=
  ∀ rest, endsNumber rest → readOperand ty (w ++ rest) = some (bs, rest)

theorem readsBack_u8 (b : Byte) : ReadsBack .u8 (writeU8 b) [b] :=
  fun _ hend => readOperand_writeU8 b hend

theorem readsBack_u16 (v : Hue) : ReadsBack .u16 (writeU16 v) (encodeU16 v) :=
  fun _ hend => readOperand_writeU16 v hend

theorem readsBack_bool (u : Bool) : ReadsBack .bool (writeBool u) (encodeBool u) :=
  fun rest _ => readOperand_writeBool u rest

theorem readsBack_color (c : Color) : ReadsBack .color (writeColor c) (encodeColor c) :=
  fun rest _ => readOperand_writeColor c rest

theorem readsBack_text {t : Text} (h : textFits t = true) : ReadsBack .text (writeText t) (encodeText t) :=
  fun rest _ => readOperand_writeText t rest h

theorem ReadsBack.last (h : ReadsBack ty w bs) : readOperands [ty] w = some bs :=
  readOperands_last ty w bs (h [] endsNumber_nil)

theorem ReadsBack.more (h : ReadsBack ty w bs) (hmore : readOperands (ty' :: tys) line = some bs') :
    readOperands (ty :: ty' :: tys) (w ++ 0x2C :: 0x20 :: line) = some (bs ++ bs') :=
  readOperands_more ty ty' tys w bs bs' line (fun r => h (0x2C :: r) (endsNumber_comma r)) hmore

/-- The row of R73 that a command belongs to. -/
def rowOf : Instr → AsmRow
  | .begin _ => ⟨"BEGIN", 0x01, [.u8]⟩
  | .setBrightness _ => ⟨"SET_BRIGHTNESS", 0x02, [.u8]⟩
  | .setForceUppercase _ => ⟨"SET_FORCE_UPPERCASE", 0x03, [.bool]⟩
  | .isReady => ⟨"IS_READY", 0x04, []⟩
  | .alphabetSize => ⟨"ALPHABET_SIZE", 0x05, []⟩
  | .glyphAt _ => ⟨"GLYPH_AT", 0x06, [.u8]⟩
  | .renderSolid _ _ => ⟨"RENDER_SOLID", 0x10, [.text, .color]⟩
  | .renderVGrad _ _ _ => ⟨"RENDER_VGRAD", 0x11, [.text, .color, .color]⟩
  | .renderHGrad _ _ _ => ⟨"RENDER_HGRAD", 0x12, [.text, .color, .color]⟩
  | .renderCycle _ _ => ⟨"RENDER_CYCLE", 0x13, [.text, .u8]⟩
  | .renderClock _ _ _ _ _ => ⟨"RENDER_CLOCK", 0x14, [.u8, .u8, .u8, .color, .color]⟩
  | .lookup _ _ => ⟨"LOOKUP", 0x20, [.u8, .bool]⟩
  | .pack _ _ _ => ⟨"PACK", 0x21, [.u8, .u8, .u8]⟩
  | .unpackRed _ => ⟨"UNPACK_RED", 0x22, [.color]⟩
  | .unpackGreen _ => ⟨"UNPACK_GREEN", 0x23, [.color]⟩
  | .unpackBlue _ => ⟨"UNPACK_BLUE", 0x24, [.color]⟩
  | .hsvToRgb _ _ _ => ⟨"HSV_TO_RGB", 0x25, [.u16, .u8, .u8]⟩
  | .gamma _ => ⟨"GAMMA", 0x26, [.u8]⟩
  | .wheel _ => ⟨"WHEEL", 0x27, [.u8]⟩
  | .scale _ _ => ⟨"SCALE", 0x28, [.u8, .u8]⟩
  | .resolve _ => ⟨"RESOLVE", 0x29, [.text]⟩

/-- `rowOf` is the model's own search for the opcode. -/
theorem find_opcode (i : Instr) : asmRows.find? (fun row => row.op = opcode i) = some (rowOf i) := by
  cases i <;> rfl

theorem rowOf_mem (i : Instr) : rowOf i ∈ asmRows :=
  List.mem_of_find?_eq_some (find_opcode i)

theorem rowOf_op (i : Instr) : (rowOf i).op = opcode i := by
  simpa using List.find?_some (find_opcode i)

theorem mnemonicOf_eq (i : Instr) : mnemonicOf i = ascii (rowOf i).name := by
  simp only [mnemonicOf, find_opcode]

/-- The written operands of a command are read as its operand bytes, under the operand types of its row. -/
theorem readOperands_writtenOperands (h : wellFormed i = true) :
    readOperands (rowOf i).operands (separated (writtenOperands i)) = some (operandBytes i) := by
  cases i with
  | isReady | alphabetSize => rfl
  | begin b | setBrightness b | glyphAt b | gamma b | wheel b => exact (readsBack_u8 b).last
  | setForceUppercase u => exact (readsBack_bool u).last
  | unpackRed c | unpackGreen c | unpackBlue c => exact (readsBack_color c).last
  | resolve => exact (readsBack_text h).last
  | renderSolid _ c => exact (readsBack_text h).more (readsBack_color c).last
  | renderVGrad _ a b | renderHGrad _ a b =>
    exact (readsBack_text h).more ((readsBack_color a).more (readsBack_color b).last)
  | renderCycle _ o => exact (readsBack_text h).more (readsBack_u8 o).last
  | renderClock hours minutes seconds a b =>
    exact (readsBack_u8 hours).more ((readsBack_u8 minutes).more ((readsBack_u8 seconds).more
      ((readsBack_color a).more (readsBack_color b).last)))
  | lookup ch u => exact (readsBack_u8 ch).more (readsBack_bool u).last
  | pack r g b => exact (readsBack_u8 r).more ((readsBack_u8 g).more (readsBack_u8 b).last)
  | hsvToRgb hue sat val =>
    exact (readsBack_u16 hue).more ((readsBack_u8 sat).more (readsBack_u8 val).last)
  | scale c b => exact (readsBack_u8 c).more (readsBack_u8 b).last

theorem operands_eq_nil_iff (i : Instr) : (rowOf i).operands = [] ↔ writtenOperands i = [] := by
  cases i <;> simp [rowOf, writtenOperands]

/-! ### The mnemonic of a line -/

theorem mnemonic_has_no_space : ∀ row ∈ asmRows, 0x20 ∉ ascii row.name := by decide

theorem mnemonics_nodup : (asmRows.map fun row => ascii row.name).Nodup := by decide

theorem find_mnemonic (hrow : row ∈ asmRows) :
    asmRows.find? (fun r => ascii r.name = ascii row.name) = some row := by
  cases hfind : asmRows.find? (fun r => ascii r.name = ascii row.name) with
  | none => exact absurd (List.find?_eq_none.1 hfind row hrow) (by simp)
  | some r =>
    have hname : ascii r.name = ascii row.name := by simpa using List.find?_some hfind
    rw [List.inj_on_of_nodup_map mnemonics_nodup (List.mem_of_find?_eq_some hfind) hrow hname]

/-- A line's row is the one of its mnemonic, which ends with the line or at a space. -/
theorem readRow_mnemonic (hrow : row ∈ asmRows) (h : ∀ b ∈ line.head?, b = 0x20) :
    readRow (ascii row.name ++ line) = some (row, line) := by
  have hname : (ascii row.name ++ line).takeWhile (fun b => b ≠ 0x20) = ascii row.name := by
    rw [List.takeWhile_append_of_pos fun b hb =>
      decide_eq_true (ne_of_mem_of_not_mem hb (mnemonic_has_no_space row hrow))]
    cases line with
    | nil => simp
    | cons b rest => simp [h b rfl]
  simp only [readRow, hname, find_mnemonic hrow, Option.map_some, List.drop_left]

theorem assemble_bare (hrow : row ∈ asmRows) (hops : row.operands = []) :
    assemble (ascii row.name) = some [row.op] := by
  have hread := readRow_mnemonic (line := []) hrow (by simp)
  rw [List.append_nil] at hread
  simp only [assemble, hread, Option.bind_some, hops]

theorem assemble_operands (hrow : row ∈ asmRows) (hops : row.operands ≠ [])
    (h : readOperands row.operands line = some bs) :
    assemble (ascii row.name ++ 0x20 :: line) = some (row.op :: bs) := by
  have hread := readRow_mnemonic (line := 0x20 :: line) hrow (by simp)
  cases htypes : row.operands with
  | nil => exact absurd htypes hops
  | cons ty tys =>
    rw [htypes] at h
    simp only [assemble, hread, Option.bind_some, htypes, h, Option.map_some]

/-! ### The line of a command -/

theorem disassemble_bare (hw : writtenOperands i = []) : disassemble i = ascii (rowOf i).name := by
  simp only [disassemble, hw, mnemonicOf_eq]

theorem disassemble_operands (hw : writtenOperands i ≠ []) :
    disassemble i = ascii (rowOf i).name ++ 0x20 :: separated (writtenOperands i) := by
  cases hs : writtenOperands i with
  | nil => exact absurd hs hw
  | cons => simp only [disassemble, hs, mnemonicOf_eq]

/-- A command's line is its row's mnemonic and the written operands, which are read one after another. -/
theorem assemble_disassemble (h : wellFormed i = true) : assemble (disassemble i) = some (encode i) := by
  have hread := readOperands_writtenOperands h
  by_cases hw : writtenOperands i = []
  · have hops := (operands_eq_nil_iff i).2 hw
    rw [hops, hw] at hread
    have hbytes : operandBytes i = [] := (Option.some.inj hread).symm
    rw [disassemble_bare hw, assemble_bare (rowOf_mem i) hops, encode, hbytes, rowOf_op]
  · have hops := mt (operands_eq_nil_iff i).1 hw
    rw [disassemble_operands hw, assemble_operands (rowOf_mem i) hops hread, encode, rowOf_op]

end Sys2Proof.Machine

namespace Sys2Proof.Machine

/-! ### The statements of 30_encoding -/

/-- Settles O10: the reader of the command's opcode accepts its operand bytes (`decode_encode`). -/
theorem decodeEncodeRoundTrip : Obligations.DecodeEncodeRoundTrip :=
  fun _ hwf => decode_ok_iff.2 ⟨hwf, rfl⟩

/-- Settles O11: what a reader accepts are the operand bytes of its row's command (`encode_of_operandReader`). -/
theorem encodeDecodeRoundTrip : Obligations.EncodeDecodeRoundTrip :=
  fun _ _ h => decode_ok_iff.1 h

/-- Settles O13: the mnemonic finds the command's row, and the row's types read the written operands back. -/
theorem assembleDisassembleRoundTrip : Obligations.AssembleDisassembleRoundTrip :=
  fun _ hwf => assemble_disassemble hwf

/-- Settles O7: an opcode is illegal exactly when it has no reader, and those are the unlisted ones. -/
theorem illegalOpcodesAreTheUnlistedOnes : Obligations.IllegalOpcodesAreTheUnlistedOnes := by
  intro op operands
  rw [decode_cons_illegal_iff, ← Option.isNone_iff_eq_none]
  exact operandReader_isNone_iff op

/-- Settles O8: with the two BOOL layouts apart, a reader fails for the frame's length alone (`read_eq_none_iff`). -/
theorem malformedFramesAreWrongLengthOrBadBool : Obligations.MalformedFramesAreWrongLengthOrBadBool := by
  intro op operands
  rw [decode_cons_malformed_iff]
  by_cases h3 : op = 0x03
  · subst h3
    rw [frameLength_wrong_iff (n := 1) rfl]
    simp [operandReader, readBool_eq_none_iff]
  by_cases h20 : op = 0x20
  · subst h20
    rw [frameLength_wrong_iff (n := 2) rfl]
    simp [operandReader, readU8Bool_eq_none_iff]
  simp only [h3, h20, false_and, or_false]
  cases hop : operandReader op with
  | none =>
    have hlayout : frameLayout op = none := by
      rw [← Option.isNone_iff_eq_none, frameLayout_isNone, hop]
      rfl
    simp [frameLength, hlayout]
  | some read => simp [read_eq_none_iff hop h3 h20]

/-- Settles O9: a frame that decodes is its command's (O11), and the scheme gives a command's frame its length. -/
theorem decodedFrameHasItsLayoutsLength : Obligations.DecodedFrameHasItsLayoutsLength := by
  intro frame i h
  obtain ⟨hwf, rfl⟩ := decode_ok_iff.1 h
  exact frameLength_encode hwf

/-- Settles O20: a query responds (`exec_query_logs`); a render and a silent command do not. -/
theorem queriesRespondOnce : Obligations.QueriesRespondOnce := by
  intro i s t he
  constructor
  · intro hq
    obtain ⟨-, hresponse, -⟩ := exec_query_logs hq he
    exact hresponse
  · intro hq
    cases hr : isRender i with
    | true =>
      obtain ⟨-, hresponses, -⟩ := exec_render_logs hr he
      exact hresponses
    | false =>
      obtain ⟨-, hresponses, -⟩ := exec_silent_logs hr hq he
      exact hresponses

/-- Settles O2: the word's frame is the next command, and taking it gives the state back. -/
theorem storedTableWordIsRunNext : Obligations.StoredTableWordIsRunNext := by
  intro s nbits w i h
  exact step_decoded (issueNext_pending (tableFrame nbits w) s) rfl (decode_of_decodeTableWord h)

/-- Settles O3: it is the step's branch for a frame that is refused. -/
theorem refusedFrameLeavesOnlyItsMark : Obligations.RefusedFrameLeavesOnlyItsMark :=
  fun _ _ _ _ hpending hdecode => step_refused hpending rfl hdecode

/-- Settles O12, frame by frame. -/
theorem sampleFramesDecode : Obligations.SampleFramesDecode :=
  ⟨rfl, rfl, rfl, rfl, rfl, rfl, rfl, rfl⟩

end Sys2Proof.Machine

/-! SUPPORT. What the statements of 40_glyph_table rest on: the alphabet index and the alphabet's entries are inverse,
folding lower-cases A to Z and nothing else, and at which characters the two glyph tables can differ. -/

namespace Sys2Proof.Machine

variable {ch : Byte} {index : Byte} {s : State}

/-! ### The alphabet index (R100) -/

theorem positionFrom_eq_idxOf? (ch : Byte) (cs : List Byte) (k : Nat) :
    positionFrom ch k cs = (cs.idxOf? ch).map (· + k) := by
  induction cs generalizing k with
  | nil => rfl
  | cons c rest ih =>
    by_cases hc : c = ch
    · simp [positionFrom, List.idxOf?_cons, hc]
    · simp [positionFrom, List.idxOf?_cons, hc, ih, Function.comp_def, Nat.add_assoc, Nat.add_comm 1]

theorem alphabet_nodup : alphabet.Nodup := by decide

/-- No character stands twice in the alphabet, so its first position is its only one. -/
theorem idxOf?_alphabet_eq_some_iff {k : Nat} : alphabet.idxOf? ch = some k ↔ alphabet[k]? = some ch := by
  rw [List.idxOf?_eq_some_iff, List.getElem?_eq_some_iff]
  refine exists_congr fun hk => and_iff_left_of_imp fun hch j hj hjch => ?_
  exact hj.ne (alphabet_nodup.getElem_inj_iff.1 (hjch.trans hch.symm))

theorem alphabetIndex_eq_some_iff {k : Fin 32} : alphabetIndex ch = some k ↔ alphabet[k.val]? = some ch := by
  rw [← idxOf?_alphabet_eq_some_iff, alphabetIndex, positionFrom_eq_idxOf?]
  cases alphabet.idxOf? ch with
  | none => simp
  | some j => simpa [Fin.ext_iff] using fun hj : j = k.val => hj ▸ k.isLt

theorem mem_alphabet_iff : ch ∈ alphabet ↔ ∃ k : Fin 32, alphabet[k.val]? = some ch := by
  constructor
  · intro h
    obtain ⟨k, hk, hch⟩ := List.mem_iff_getElem.1 h
    exact ⟨⟨k, hk⟩, List.getElem?_eq_some_iff.2 ⟨hk, hch⟩⟩
  · rintro ⟨k, hk⟩
    exact List.mem_of_getElem? hk

theorem alphabetIndex_eq_none_iff : alphabetIndex ch = none ↔ ch ∉ alphabet := by
  simp [Option.eq_none_iff_forall_ne_some, alphabetIndex_eq_some_iff, mem_alphabet_iff]

/-! ### Folding (R101) -/

theorem fold_of_upper (h : 0x41 ≤ ch ∧ ch ≤ 0x5A) : fold ch = ch + 0x20 := if_pos h

theorem fold_of_not_upper (h : ¬(0x41 ≤ ch ∧ ch ≤ 0x5A)) : fold ch = ch := if_neg h

/-- A folded byte is not an upper-case letter: 0x20 above A to Z lie 0x61 to 0x7A. -/
theorem fold_not_upper (ch : Byte) : ¬(0x41 ≤ fold ch ∧ fold ch ≤ 0x5A) := by
  by_cases h : 0x41 ≤ ch ∧ ch ≤ 0x5A
  · rw [fold_of_upper h]
    bv_omega
  · rwa [fold_of_not_upper h]

theorem fold_fold (ch : Byte) : fold (fold ch) = fold ch := fold_of_not_upper (fold_not_upper ch)

/-! ### The lookup (R102) -/

theorem lookupFn_fold (cfg : Config) (ch : Byte) (upper : Bool) :
    lookupFn cfg (fold ch) upper = lookupFn cfg ch upper := by
  rw [lookupFn, fold_fold, lookupFn]

theorem lookupFn_of_index {k : Fin 32} (h : alphabet[k.val]? = some (fold ch)) (cfg : Config) (upper : Bool) :
    lookupFn cfg ch upper = some ((glyphTable cfg upper).get k) := by
  rw [lookupFn, alphabetIndex_eq_some_iff.2 h, Option.map_some]

theorem lookupFn_of_not_mem (h : fold ch ∉ alphabet) (cfg : Config) (upper : Bool) : lookupFn cfg ch upper = none := by
  rw [lookupFn, alphabetIndex_eq_none_iff.2 h, Option.map_none]

/-- R103's five indices are those of b, d, n, o and r. -/
theorem alphabet_variantGlyphs :
    variantGlyphs.map (fun k => alphabet[k.val]?) = [some 0x62, some 0x64, some 0x6E, some 0x6F, some 0x72] := rfl

theorem not_mem_variantGlyphs {k : Fin 32} (hk : alphabet[k.val]? = some ch)
    (hch : ch ∉ ([0x62, 0x64, 0x6E, 0x6F, 0x72] : List Byte)) : k ∉ variantGlyphs := by
  intro hv
  have hmem := List.mem_map_of_mem (f := fun k : Fin 32 => alphabet[k.val]?) hv
  rw [alphabet_variantGlyphs, hk] at hmem
  exact hch (by simpa using hmem)

theorem lookupFn_same_of_not_variant (h : fold ch ∉ ([0x62, 0x64, 0x6E, 0x6F, 0x72] : List Byte)) (cfg : Config) :
    lookupFn cfg ch false = lookupFn cfg ch true := by
  by_cases hmem : fold ch ∈ alphabet
  · obtain ⟨k, hk⟩ := mem_alphabet_iff.1 hmem
    have hsame : cfg.glyphUpper.get k = cfg.glyphDefault.get k := cfg.glyph_same k (not_mem_variantGlyphs hk h)
    rw [lookupFn_of_index hk, lookupFn_of_index hk]
    exact congrArg some hsame.symm
  · rw [lookupFn_of_not_mem hmem, lookupFn_of_not_mem hmem]

/-! ### The alphabet band by band (R100) -/

theorem alphabet_eq_bands : alphabet =
    (List.range 10).map (fun k => 0x30 + BitVec.ofNat 8 k) ++
      ((List.range 10).map (fun k => 0x61 + BitVec.ofNat 8 k) ++
        ([0x6C, 0x6E, 0x6F, 0x70, 0x71, 0x72, 0x73, 0x75, 0x78, 0x79] ++ [0x20, 0x2D])) := rfl

theorem alphabet_digit (h : index < 10) : alphabet[index.toNat]? = some (0x30 + index) := by
  have hlt : index.toNat < 10 := h
  rw [alphabet_eq_bands, List.getElem?_append_left (by simpa using hlt)]
  simp [hlt]

theorem alphabet_firstLetter (hlo : 10 ≤ index) (hhi : index < 20) :
    alphabet[index.toNat]? = some (0x61 + (index - 10)) := by
  have hge : 10 ≤ index.toNat := hlo
  have hlt : index.toNat - 10 < 10 := by bv_omega
  have hsub : index - 10 = BitVec.ofNat 8 (index.toNat - 10) := by bv_omega
  rw [alphabet_eq_bands, List.getElem?_append_right (by simpa using hge), List.getElem?_append_left (by simpa using hlt),
    hsub]
  simp [hlt]

theorem alphabet_laterLetter (hlo : 20 ≤ index) (hhi : index < 30) : alphabet[index.toNat]? =
    ([0x6C, 0x6E, 0x6F, 0x70, 0x71, 0x72, 0x73, 0x75, 0x78, 0x79] : List Byte)[index.toNat - 20]? := by
  have hge : 20 ≤ index.toNat := hlo
  have hlt : index.toNat < 30 := hhi
  rw [alphabet_eq_bands, List.getElem?_append_right (by simp; omega), List.getElem?_append_right (by simp; omega),
    List.getElem?_append_left (by simp; omega)]
  simp [Nat.sub_sub]

theorem exists_alphabet_of_lt (h : index < 32) : ∃ ch, alphabet[index.toNat]? = some ch :=
  ⟨_, List.getElem?_eq_getElem (show index.toNat < alphabet.length from h)⟩

theorem alphabet_eq_none_of_le (h : 32 ≤ index) : alphabet[index.toNat]? = none :=
  List.getElem?_eq_none (show alphabet.length ≤ index.toNat from h)

/-! ### GLYPH_AT (R107, R108) -/

theorem exec_glyphAt_of_some (h : alphabet[index.toNat]? = some ch) :
    exec (.glyphAt index) s = .next { s with responses := s.responses ++ [[ch]] } := by
  simp only [exec, execGlyphAt, h]
  rfl

theorem exec_glyphAt_of_none (h : alphabet[index.toNat]? = none) :
    exec (.glyphAt index) s = .next { s with
      responses := s.responses ++ [[Config.glyphAtOor s.draws index]], draws := s.draws + 1 } := by
  simp only [exec, execGlyphAt, h]
  rfl

end Sys2Proof.Machine

namespace Sys2Proof.Machine

/-! ### The statements of 40_glyph_table -/

/-- Settles O27: the alphabet index of the fold is found exactly when the fold is in the alphabet. -/
theorem lookupReadsTheSelectedTable : Obligations.LookupReadsTheSelectedTable :=
  fun cfg _ => ⟨fun _ hk => ⟨lookupFn_of_index hk cfg true, lookupFn_of_index hk cfg false⟩,
    fun h upper => lookupFn_of_not_mem h cfg upper⟩

/-- Settles O28: folding twice is folding once, and the tables agree off R103's five indices. -/
theorem lookupIgnoresCase : Obligations.LookupIgnoresCase := by
  intro cfg ch
  refine ⟨fun hlo hhi => ?_, fold_of_not_upper, fun upper => (lookupFn_fold cfg ch upper).symm,
    fun h => lookupFn_same_of_not_variant h cfg⟩
  have hfold : fold ch = ch + 0x20 := fold_of_upper ⟨hlo, hhi⟩
  exact ⟨hfold, fun upper => by rw [← hfold, lookupFn_fold]⟩

/-- Settles O29: LOOKUP only responds, and its response has one form per outcome of the lookup. -/
theorem lookupResponds : Obligations.LookupResponds := by
  intro ch u s
  refine ⟨decode_encode (i := .lookup ch u) rfl, ?_⟩
  simp only [exec, execLookup]
  cases lookupFn s.cfg ch u with
  | none => rfl
  | some code => rfl

/-- Settles O30: the alphabet has 32 characters. -/
theorem alphabetSizeResponds : Obligations.AlphabetSizeResponds :=
  ⟨decode_encode (i := .alphabetSize) rfl, fun _ => rfl⟩

/-- Settles O31: the alphabet's entry in its band, or none from 32 on. -/
theorem glyphAtResponds : Obligations.GlyphAtResponds := by
  intro index s
  refine ⟨decode_encode (i := .glyphAt index) rfl, fun hlt => ?_, fun hge => ?_⟩
  · obtain ⟨ch, hch⟩ := exists_alphabet_of_lt hlt
    have entry_unique {c : Byte} (hc : alphabet[index.toNat]? = some c) : ch = c :=
      Option.some.inj (hch.symm.trans hc)
    refine ⟨ch, hch, fun h => ?digit, fun hlo hhi => ?firstLetter, fun hlo hhi => ?laterLetter, ?space, ?minus,
      exec_glyphAt_of_some hch⟩
    case digit => exact entry_unique (alphabet_digit h)
    case firstLetter => exact entry_unique (alphabet_firstLetter hlo hhi)
    case laterLetter => exact (alphabet_laterLetter hlo hhi).symm.trans hch
    case space => rintro rfl; exact entry_unique rfl
    case minus => rintro rfl; exact entry_unique rfl
  · exact ⟨_, exec_glyphAt_of_none (alphabet_eq_none_of_le hge)⟩

end Sys2Proof.Machine

/-! SUPPORT. What the statements of 41_color_math rest on: a packed colour and its three channels determine each other,
and the exact value of every channel formula (no result is cut off at 8 bits). -/

namespace Sys2Proof.Machine

variable {c : Color} {pos : Byte} {i num den : Nat}

/-- `decode_encode`, with the operand bytes of the frame written out. -/
theorem decode_of_operandBytes {j : Instr} {bs : ByteString} (hwf : wellFormed j = true)
    (hbytes : operandBytes j = bs) :
    decode (opcode j :: bs) = .ok j :=
  hbytes ▸ decode_encode hwf

/-! ### Packing (R120 to R124): the operand bytes of a colour are its channels -/

/-- R121's mask only names the byte that the cut to 8 bits keeps. -/
theorem setWidth_mask (c : Color) : (c &&& 0xFF).setWidth 8 = c.setWidth 8 := by
  apply BitVec.eq_of_toNat_eq
  rw [BitVec.toNat_setWidth, BitVec.toNat_setWidth, BitVec.toNat_and]
  exact (congrArg (· % 2 ^ 8) (Nat.and_two_pow_sub_one_eq_mod c.toNat 8)).trans (Nat.mod_mod _ _)

theorem toNat_red (c : Color) : (red c).toNat = c.toNat / 65536 := by
  rw [red, setWidth_mask, BitVec.toNat_setWidth, BitVec.toNat_ushiftRight, Nat.shiftRight_eq_div_pow]
  omega

theorem toNat_green (c : Color) : (green c).toNat = c.toNat / 256 % 256 := by
  rw [green, setWidth_mask, BitVec.toNat_setWidth, BitVec.toNat_ushiftRight, Nat.shiftRight_eq_div_pow]

theorem toNat_blue (c : Color) : (blue c).toNat = c.toNat % 256 := by
  rw [blue, setWidth_mask, BitVec.toNat_setWidth]

theorem toNat_eq_channels (c : Color) :
    c.toNat = (red c).toNat * 65536 + (green c).toNat * 256 + (blue c).toNat := by
  rw [toNat_red, toNat_green, toNat_blue]
  omega

theorem channels_of_toNat {r g b : Byte} (h : c.toNat = r.toNat * 65536 + g.toNat * 256 + b.toNat) :
    red c = r ∧ green c = g ∧ blue c = b := by
  refine ⟨BitVec.eq_of_toNat_eq ?_, BitVec.eq_of_toNat_eq ?_, BitVec.eq_of_toNat_eq ?_⟩
  · rw [toNat_red]; omega
  · rw [toNat_green]; omega
  · rw [toNat_blue]; omega

/-- A `COLOR` operand and a `COLOR` result have the same bytes (R72, R78). -/
theorem encodeColor_eq_colorResponse (c : Color) : encodeColor c = colorResponse c := by
  simp only [encodeColor, colorResponse, red, green, blue, setWidth_mask]

/-- `pack` assembles a colour as the decoder does (`colorOfBytes`), so the read-back of an encoded colour is R124. -/
theorem colorResponse_pack (r g b : Byte) : colorResponse (pack r g b) = [r, g, b] :=
  (encodeColor_eq_colorResponse _).symm.trans (encodeColor_colorOfBytes r g b)

@[simp] theorem red_pack (r g b : Byte) : red (pack r g b) = r :=
  (List.cons.inj (colorResponse_pack r g b)).1

@[simp] theorem green_pack (r g b : Byte) : green (pack r g b) = g :=
  (List.cons.inj (List.cons.inj (colorResponse_pack r g b)).2).1

@[simp] theorem blue_pack (r g b : Byte) : blue (pack r g b) = b :=
  (List.cons.inj (List.cons.inj (List.cons.inj (colorResponse_pack r g b)).2).2).1

theorem toNat_pack (r g b : Byte) : (pack r g b).toNat = r.toNat * 65536 + g.toNat * 256 + b.toNat := by
  simpa using toNat_eq_channels (pack r g b)

theorem pack_channels (c : Color) : pack (red c) (green c) (blue c) = c :=
  BitVec.eq_of_toNat_eq ((toNat_pack _ _ _).trans (toNat_eq_channels c).symm)

theorem encodeColor_of_toNat {b0 b1 b2 : Byte} (h : c.toNat = b0.toNat * 65536 + b1.toNat * 256 + b2.toNat) :
    encodeColor c = [b0, b1, b2] := by
  obtain ⟨rfl, rfl, rfl⟩ := channels_of_toNat h
  exact encodeColor_eq_colorResponse c

/-! ### HSV to RGB (R125 to R128) -/

theorem encodeU16_of_toNat {h0 h1 : Byte} {hue : Hue} (h : hue.toNat = h0.toNat * 256 + h1.toNat) :
    encodeU16 hue = [h0, h1] := by
  have high : (hue >>> 8).setWidth 8 = h0 := BitVec.eq_of_toNat_eq (by
    rw [BitVec.toNat_setWidth, BitVec.toNat_ushiftRight, Nat.shiftRight_eq_div_pow]; omega)
  have low : hue.setWidth 8 = h1 := BitVec.eq_of_toNat_eq (by rw [BitVec.toNat_setWidth]; omega)
  rw [encodeU16, high, low]

theorem hueIndex_eq (hue : Hue) : hueIndex hue = (hue.toNat * 1530 + 32768) / 65536 :=
  Nat.shiftRight_eq_div_pow _ _

/-- Even the last hue, 65535, rounds to no more than 1530. -/
theorem hueIndex_le (hue : Hue) : hueIndex hue ≤ 1530 := by
  rw [hueIndex_eq]
  omega

theorem hexcone_red_to_yellow (h : i < 255) : hexcone i = (255, BitVec.ofNat 8 i, 0) := if_pos h

theorem hexcone_yellow_to_green (hlo : 255 ≤ i) (hhi : i < 510) : hexcone i = (BitVec.ofNat 8 (510 - i), 255, 0) := by
  rw [hexcone, if_neg (by omega), if_pos hhi]

theorem hexcone_green_to_cyan (hlo : 510 ≤ i) (hhi : i < 765) : hexcone i = (0, 255, BitVec.ofNat 8 (i - 510)) := by
  rw [hexcone, if_neg (by omega), if_neg (by omega), if_pos hhi]

theorem hexcone_cyan_to_blue (hlo : 765 ≤ i) (hhi : i < 1020) : hexcone i = (0, BitVec.ofNat 8 (1020 - i), 255) := by
  rw [hexcone, if_neg (by omega), if_neg (by omega), if_neg (by omega), if_pos hhi]

theorem hexcone_blue_to_magenta (hlo : 1020 ≤ i) (hhi : i < 1275) :
    hexcone i = (BitVec.ofNat 8 (i - 1020), 0, 255) := by
  rw [hexcone, if_neg (by omega), if_neg (by omega), if_neg (by omega), if_neg (by omega), if_pos hhi]

theorem hexcone_magenta_to_red (hlo : 1275 ≤ i) (hhi : i < 1530) :
    hexcone i = (255, 0, BitVec.ofNat 8 (1530 - i)) := by
  rw [hexcone, if_neg (by omega), if_neg (by omega), if_neg (by omega), if_neg (by omega), if_neg (by omega),
    if_pos hhi]

/-- A number of at most 255 is not cut off in a channel. -/
theorem toNat_ofNat_channel {n : Nat} (h : n ≤ 255) : (BitVec.ofNat 8 n).toNat = n :=
  (BitVec.toNat_ofNat _ _).trans (Nat.mod_eq_of_lt (Nat.lt_succ_of_le h))

/-- Saturation leaves at most `sat` of a channel, and R127's offset is what `sat` lacks to 255. -/
theorem saturated_le (ch sat : Byte) : ch.toNat * (sat.toNat + 1) / 256 + (255 - sat.toNat) ≤ 255 := by
  have hproduct : ch.toNat * (sat.toNat + 1) ≤ 255 * (sat.toNat + 1) :=
    Nat.mul_le_mul_right _ (Nat.le_of_lt_succ ch.isLt)
  omega

/-- R127's result without the cut to 8 bits. -/
theorem toNat_sv (ch sat val : Byte) :
    (sv ch sat val).toNat =
      (ch.toNat * (sat.toNat + 1) / 256 + (255 - sat.toNat)) * (val.toNat + 1) / 256 := by
  have hproduct : (ch.toNat * (sat.toNat + 1) / 256 + (255 - sat.toNat)) * (val.toNat + 1) ≤ 255 * 256 :=
    Nat.mul_le_mul (saturated_le ch sat) val.isLt
  simp only [sv, Nat.shiftRight_eq_div_pow]
  exact toNat_ofNat_channel (Nat.div_le_of_le_mul (by omega))

theorem sv_val_zero (ch sat : Byte) : sv ch sat 0 = 0 :=
  BitVec.eq_of_toNat_eq ((toNat_sv ch sat 0).trans
    (Nat.div_eq_of_lt (by simpa using Nat.lt_succ_of_le (saturated_le ch sat))))

/-- Without saturation the channel itself drops out: what is left is the grey of `val`. -/
theorem toNat_sv_sat_zero (ch val : Byte) : (sv ch 0 val).toNat = (val.toNat + 1) * 255 / 256 := by
  have hdrop : ch.toNat / 256 = 0 := Nat.div_eq_of_lt ch.isLt
  rw [toNat_sv]
  simp [hdrop, Nat.mul_comm]

theorem sv_sat_zero (ch val : Byte) : sv ch 0 val = sv 0 0 val :=
  BitVec.eq_of_toNat_eq ((toNat_sv_sat_zero ch val).trans (toNat_sv_sat_zero 0 val).symm)

theorem hsvToRgb_val_zero (hue : Hue) (sat : Byte) : hsvToRgb hue sat 0 = 0x000000 := by
  simp only [hsvToRgb, sv_val_zero]
  rfl

theorem hsvToRgb_sat_zero (hue : Hue) (val : Byte) :
    hsvToRgb hue 0 val = pack (sv 0 0 val) (sv 0 0 val) (sv 0 0 val) := by
  simp only [hsvToRgb, sv_sat_zero]

/-! ### The colour wheel (R131), band by band -/

theorem wheel_first (h : pos.toNat < 85) :
    wheel pos = pack (BitVec.ofNat 8 (255 - 3 * pos.toNat)) 0 (BitVec.ofNat 8 (3 * pos.toNat)) :=
  if_pos h

theorem wheel_second (hlo : 85 ≤ pos.toNat) (hhi : pos.toNat < 170) :
    wheel pos = pack 0 (BitVec.ofNat 8 (3 * (pos.toNat - 85))) (BitVec.ofNat 8 (255 - 3 * (pos.toNat - 85))) :=
  (if_neg hlo.not_gt).trans (if_pos hhi)

theorem wheel_third (h : 170 ≤ pos.toNat) :
    wheel pos = pack (BitVec.ofNat 8 (3 * (pos.toNat - 170))) (BitVec.ofNat 8 (255 - 3 * (pos.toNat - 170))) 0 :=
  (if_neg (by omega)).trans (if_neg h.not_gt)

/-! ### Blending (R133 to R135) -/

/-- The part `num / den` of a rise `d`, truncated, lies between none and all of it. -/
theorem tdiv_part_bounds {d : Int} (hd : 0 ≤ d) (hden : 0 < den) (hnum : num ≤ den) :
    0 ≤ Int.tdiv (d * num) den ∧ Int.tdiv (d * num) den ≤ d := by
  have hproduct : d * num ≤ d * den := Int.mul_le_mul_of_nonneg_left (by exact_mod_cast hnum) hd
  refine ⟨Int.tdiv_nonneg (Int.mul_nonneg hd num.cast_nonneg) den.cast_nonneg, ?_⟩
  rw [Int.tdiv_eq_ediv_of_nonneg (Int.mul_nonneg hd num.cast_nonneg)]
  exact Int.ediv_le_of_le_mul (by exact_mod_cast hden) hproduct

/-- The interpolation stays between its ends; a fall is a rise of the opposite sign, since the division truncates
toward 0. -/
theorem interpolation_bounds (a b : Int) (hden : 0 < den) (hnum : num ≤ den) :
    min a b ≤ a + Int.tdiv ((b - a) * num) den ∧ a + Int.tdiv ((b - a) * num) den ≤ max a b := by
  obtain hrise | hfall := Int.le_total a b
  · have hpart := tdiv_part_bounds (d := b - a) (by omega) hden hnum
    omega
  · have hpart := tdiv_part_bounds (d := a - b) (by omega) hden hnum
    have hsign : Int.tdiv ((b - a) * num) den = -Int.tdiv ((a - b) * num) den := by
      rw [← Int.neg_tdiv, ← Int.neg_mul, Int.neg_sub]
    omega

/-- R133's formula without the cut to 8 bits. -/
theorem toNat_blendCh (a b : Byte) (hden : 0 < den) (hnum : num ≤ den) :
    ((blendCh a b num den).toNat : Int) =
      (a.toNat : Int) + Int.tdiv (((b.toNat : Int) - (a.toNat : Int)) * (num : Int)) (den : Int) := by
  have hbounds := interpolation_bounds (a.toNat : Int) (b.toNat : Int) hden hnum
  have ha := a.isLt
  have hb := b.isLt
  rw [blendCh, BitVec.toNat_ofInt]
  omega

theorem blendCh_zero (a b : Byte) (den : Nat) : blendCh a b 0 den = a := by
  simp [blendCh]

theorem blendCh_self (a : Byte) (num den : Nat) : blendCh a a num den = a := by
  simp [blendCh]

theorem blendCh_full (a b : Byte) (hden : 0 < den) : blendCh a b den den = b := by
  have hden' : (den : Int) ≠ 0 := by omega
  simp [blendCh, Int.mul_tdiv_cancel _ hden']

/-! ### Brightness (R136 to R138) -/

/-- R136's quotient without the cut to 8 bits. -/
theorem toNat_scaleCh (ch br : Byte) : (scaleCh ch br).toNat = (ch.toNat * br.toNat + 127) / 255 := by
  have hproduct : ch.toNat * br.toNat ≤ 255 * 255 :=
    Nat.mul_le_mul (Nat.le_of_lt_succ ch.isLt) (Nat.le_of_lt_succ br.isLt)
  exact toNat_ofNat_channel (by omega)

theorem scaleCh_full (ch : Byte) : scaleCh ch 255 = ch :=
  BitVec.eq_of_toNat_eq ((toNat_scaleCh ch 255).trans (show (ch.toNat * 255 + 127) / 255 = ch.toNat by omega))

theorem scaleCh_off (ch : Byte) : scaleCh ch 0 = 0 :=
  BitVec.eq_of_toNat_eq ((toNat_scaleCh ch 0).trans (show (ch.toNat * 0 + 127) / 255 = 0 by omega))

theorem scaleCh_black (br : Byte) : scaleCh 0 br = 0 :=
  BitVec.eq_of_toNat_eq ((toNat_scaleCh 0 br).trans (show (0 * br.toNat + 127) / 255 = 0 by omega))

end Sys2Proof.Machine

namespace Sys2Proof.Machine

/-! ### The statements of 41_color_math -/

/-- Settles O32: the response's bytes and the word's value are those of `pack`'s channels. -/
theorem packRespondsItsChannels : Obligations.PackRespondsItsChannels := by
  intro r g b s
  refine ⟨decode_encode (i := .pack r g b) rfl, toNat_pack r g b, rfl, rfl, ?_⟩
  simp only [exec, execPack, colorResponse_pack, respond]

/-- Settles O33: a colour's operand bytes are its channels. -/
theorem unpackRespondsOneChannel : Obligations.UnpackRespondsOneChannel := by
  intro b0 b1 b2 c s hc
  have hbytes : encodeColor c = [b0, b1, b2] := encodeColor_of_toNat hc
  obtain ⟨rfl, rfl, rfl⟩ := channels_of_toNat hc
  exact ⟨decode_of_operandBytes (j := .unpackRed _) rfl hbytes,
    decode_of_operandBytes (j := .unpackGreen _) rfl hbytes,
    decode_of_operandBytes (j := .unpackBlue _) rfl hbytes, rfl, rfl, rfl⟩

/-- Settles O34: each channel of a packed colour, and a colour packed from its channels. -/
theorem packUnpackRoundTrip : Obligations.PackUnpackRoundTrip :=
  ⟨fun r g b => ⟨red_pack r g b, green_pack r g b, blue_pack r g b⟩, pack_channels⟩

/-- Settles O35: the response holds the channels that `hsvToRgb` packs. -/
theorem hsvToRgbResponds : Obligations.HsvToRgbResponds := by
  intro h0 h1 sat val hue s hhue
  constructor
  · exact decode_of_operandBytes (j := .hsvToRgb hue sat val) rfl
      (congrArg (· ++ [sat, val]) (encodeU16_of_toNat hhue))
  · simp only [exec, execHsvToRgb, hsvToRgb, colorResponse_pack, respond]

/-- Settles O36: the index by `hueIndex_le`, the slices by `hexcone`'s branches, the channel by `toNat_sv`. -/
theorem hsvStagesAreExact : Obligations.HsvStagesAreExact := by
  refine ⟨fun hue => ⟨hueIndex_eq hue, hueIndex_le hue⟩, fun i => ?_,
    fun ch sat val => ⟨saturated_le ch sat, toNat_sv ch sat val⟩⟩
  refine ⟨fun h => ?redToYellow, fun hlo hhi => ?yellowToGreen, fun hlo hhi => ?greenToCyan,
    fun hlo hhi => ?cyanToBlue, fun hlo hhi => ?blueToMagenta, fun hlo hhi => ?magentaToRed, ?redAgain⟩
  case redToYellow =>
    rw [hexcone_red_to_yellow h]
    exact ⟨rfl, toNat_ofNat_channel (by omega), rfl⟩
  case yellowToGreen =>
    rw [hexcone_yellow_to_green hlo hhi]
    exact ⟨toNat_ofNat_channel (by omega), rfl, rfl⟩
  case greenToCyan =>
    rw [hexcone_green_to_cyan hlo hhi]
    exact ⟨rfl, rfl, toNat_ofNat_channel (by omega)⟩
  case cyanToBlue =>
    rw [hexcone_cyan_to_blue hlo hhi]
    exact ⟨rfl, toNat_ofNat_channel (by omega), rfl⟩
  case blueToMagenta =>
    rw [hexcone_blue_to_magenta hlo hhi]
    exact ⟨toNat_ofNat_channel (by omega), rfl, rfl⟩
  case magentaToRed =>
    rw [hexcone_magenta_to_red hlo hhi]
    exact ⟨rfl, rfl, toNat_ofNat_channel (by omega)⟩
  case redAgain => rintro rfl; rfl

/-- Settles O37: the two reds are evaluated; `sv` loses the channel at no value and at no saturation. -/
theorem hsvCornerCases : Obligations.HsvCornerCases := by
  refine ⟨rfl, rfl, hsvToRgb_val_zero, fun hue val => ?_, fun hue => ?_⟩
  · rw [hsvToRgb_sat_zero, red_pack, green_pack, blue_pack]
    exact ⟨toNat_sv_sat_zero 0 val, rfl, rfl⟩
  · rw [hsvToRgb_sat_zero]
    rfl

/-- Settles O38: GAMMA's meaning is the table's entry. -/
theorem gammaResponds : Obligations.GammaResponds :=
  fun x _ => ⟨decode_encode (i := .gamma x) rfl, rfl⟩

/-- Settles O39: in each band the wheel colour's channels, none of them cut off. -/
theorem wheelRespondsItsBandColour : Obligations.WheelRespondsItsBandColour := by
  intro pos s
  refine ⟨red (wheel pos), green (wheel pos), blue (wheel pos), decode_encode (i := .wheel pos) rfl, rfl,
    fun h => ?first, fun hlo hhi => ?second, fun h => ?third⟩
  case first =>
    rw [wheel_first h, red_pack, green_pack, blue_pack]
    exact ⟨toNat_ofNat_channel (by omega), rfl, toNat_ofNat_channel (by omega)⟩
  case second =>
    rw [wheel_second hlo hhi, red_pack, green_pack, blue_pack]
    exact ⟨rfl, toNat_ofNat_channel (by omega), toNat_ofNat_channel (by omega)⟩
  case third =>
    rw [wheel_third h, red_pack, green_pack, blue_pack]
    exact ⟨toNat_ofNat_channel (by omega), toNat_ofNat_channel (by omega), rfl⟩

/-- Settles O40: the exact value (`toNat_blendCh`) and the bounds of the interpolation it is. -/
theorem blendStaysBetweenItsEnds : Obligations.BlendStaysBetweenItsEnds := by
  intro a b num den hden hnum
  have hexact := toNat_blendCh a b hden hnum
  obtain ⟨hlow, hhigh⟩ := interpolation_bounds (a.toNat : Int) (b.toNat : Int) hden hnum
  rw [← hexact] at hlow hhigh
  exact ⟨hexact, by exact_mod_cast hlow, by exact_mod_cast hhigh, blendCh_zero a b den,
    blendCh_full a b hden, blendCh_self a num den⟩

/-- Settles O41: `blend` packs the three blended channels. -/
theorem blendIsPerChannel : Obligations.BlendIsPerChannel :=
  fun _ _ _ _ => ⟨red_pack _ _ _, green_pack _ _ _, blue_pack _ _ _⟩

/-- Settles O42: both bounds are those of the exact quotient (`toNat_scaleCh`); 255 is odd, so there is no tie. -/
theorem scaleRespondsTheRoundedQuotient : Obligations.ScaleRespondsTheRoundedQuotient := by
  intro c br s
  have hexact := toNat_scaleCh c br
  exact ⟨decode_encode (i := .scale c br) rfl, rfl, hexact, by omega, by omega, scaleCh_full c, scaleCh_off c,
    scaleCh_black br, rfl, rfl, rfl⟩

/-- Settles O43: `scaleColor` packs the three scaled channels. -/
theorem scaleColorIsPerChannel : Obligations.ScaleColorIsPerChannel :=
  fun _ _ => ⟨red_pack _ _ _, green_pack _ _ _, blue_pack _ _ _⟩

end Sys2Proof.Machine

/-! SUPPORT. What the statements of 42_glyph_cache rest on: R161's loop one byte at a time, what it makes of a text
without a dot, and the state that `resolve` leaves from a coherent cache. -/

namespace Sys2Proof.Machine

variable {cfg : Config} {upper : Bool} {codes : List SegCode} {last code : SegCode} {ch : Byte} {rest text : Text}
  {s : State}

/-! ### R161's loop, byte by byte -/

/-- The merge does not ask for room (D14). -/
theorem resolveFrom_dot_merge (h : last.getLsbD 7 = false) :
    resolveFrom cfg upper (codes ++ [last]) (dot :: rest) = resolveFrom cfg upper (codes ++ [last ||| dpBit]) rest := by
  have hmerge : canMerge (codes ++ [last]) = true := by rw [canMerge_append, h, Bool.not_false]
  rw [resolveFrom, if_pos rfl, if_pos hmerge, mergeDot_append]

theorem resolveFrom_dot_ownUnit (h : canMerge codes = false) (hroom : codes.length < cfg.units) :
    resolveFrom cfg upper codes (dot :: rest) = resolveFrom cfg upper (codes ++ [dpBit]) rest := by
  rw [resolveFrom, if_pos rfl, if_neg (by simp [h]), if_neg hroom.ne]

theorem resolveFrom_dot_full (h : canMerge codes = false) (hfull : codes.length = cfg.units) :
    resolveFrom cfg upper codes (dot :: rest) = codes := by
  rw [resolveFrom, if_pos rfl, if_neg (by simp [h]), if_pos hfull]

theorem resolveFrom_char (h : ch ≠ dot) (hroom : codes.length < cfg.units) :
    resolveFrom cfg upper codes (ch :: rest) = resolveFrom cfg upper (codes ++ [glyphCode cfg upper ch]) rest := by
  rw [resolveFrom, if_neg h, if_neg hroom.ne]

theorem resolveFrom_char_full (h : ch ≠ dot) (hfull : codes.length = cfg.units) :
    resolveFrom cfg upper codes (ch :: rest) = codes := by
  rw [resolveFrom, if_neg h, if_pos hfull]

theorem resolvePure_nil : resolvePure cfg [] upper = [] := rfl

/-! ### A text without a dot -/

/-- Without a dot the loop adds one code for each byte that there is room for. -/
theorem resolveFrom_of_dot_notMem (h : dot ∉ text) (hcap : codes.length ≤ cfg.units) :
    resolveFrom cfg upper codes text =
      codes ++ (text.take (cfg.units - codes.length)).map (glyphCode cfg upper) := by
  induction text generalizing codes with
  | nil => simp [resolveFrom]
  | cons ch rest ih =>
    have hch : ch ≠ dot := (List.ne_of_not_mem_cons h).symm
    have hrest : dot ∉ rest := List.not_mem_of_not_mem_cons h
    obtain hfull | hroom := hcap.eq_or_lt
    · rw [resolveFrom_char_full hch hfull, hfull, Nat.sub_self, List.take_zero, List.map_nil, List.append_nil]
    · have hleft : cfg.units - codes.length = cfg.units - (codes ++ [glyphCode cfg upper ch]).length + 1 := by
        simp only [List.length_append, List.length_singleton]; omega
      rw [resolveFrom_char hch hroom, ih hrest (by simpa using hroom), hleft, List.take_succ_cons, List.map_cons,
        List.append_assoc, List.singleton_append]

/-! ### The code of a supported byte -/

theorem resolveFrom_found (h : ch ≠ dot) (hcode : lookupFn cfg ch upper = some code)
    (hroom : codes.length < cfg.units) :
    resolveFrom cfg upper codes (ch :: rest) = resolveFrom cfg upper (codes ++ [code]) rest := by
  rw [resolveFrom_char h hroom, glyphCode, hcode, Option.getD_some]

theorem glyphTable_bit7 (cfg : Config) (upper : Bool) (k : Fin 32) :
    ((glyphTable cfg upper).get k).getLsbD 7 = false := by
  cases upper with
  | false => exact cfg.glyphDefault_bit7 k
  | true => exact cfg.glyphUpper_bit7 k

/-- A code from a table has no decimal point (R30), so a dot after it merges. -/
theorem lookupFn_bit7 (h : lookupFn cfg ch upper = some code) : code.getLsbD 7 = false := by
  obtain ⟨k, -, rfl⟩ := Option.map_eq_some_iff.1 h
  exact glyphTable_bit7 cfg upper k

/-! ### The state that `resolve` leaves from a coherent cache (R28, R162) -/

theorem cache_eq_of_cacheHit (h : s.cacheCoherent) (hit : cacheHit text s = true) :
    s.cache = { valid := true, text := text, upper := s.forceUpper,
                codes := resolvePure s.cfg text s.forceUpper } := by
  obtain ⟨hvalid, htext, hupper⟩ := cacheHit_iff.1 hit
  rw [← hvalid, ← htext, ← hupper, ← h hvalid]

/-- A hit leaves what a miss would write. -/
theorem resolveState_of_cacheCoherent (h : s.cacheCoherent) :
    resolveState text s = { s with cache :=
      { valid := true, text := text, upper := s.forceUpper, codes := resolvePure s.cfg text s.forceUpper } } := by
  obtain ⟨hit, -, hstate⟩ | ⟨-, -, hstate⟩ := resolve_cases text s
  · rw [hstate, ← cache_eq_of_cacheHit h hit]
  · exact hstate

end Sys2Proof.Machine

namespace Sys2Proof.Machine

/-! ### The statements of 42_glyph_cache -/

/-- Settles O44: from a coherent cache a hit and a miss answer the same codes and leave the same state. -/
theorem resolveRespondsItsCodes : Obligations.ResolveRespondsItsCodes := by
  intro text s h
  refine ⟨_, rfl, resolvePure_length text s.forceUpper, ?_, ?_⟩
  · rintro rfl
    exact resolvePure_nil
  · rw [exec, execResolve, resolveCodes_of_cacheCoherent h, resolveState_of_cacheCoherent h]
    rfl

/-- Settles O45: the loop from no code at all, with room for N. -/
theorem dotlessTextGivesOneCodePerByte : Obligations.DotlessTextGivesOneCodePerByte :=
  fun cfg _ _ h => resolveFrom_of_dot_notMem (codes := []) h (Nat.zero_le cfg.units)

/-- Settles O46: one equation of the loop for each clause. -/
theorem dotMergesOrTakesItsOwnUnit : Obligations.DotMergesOrTakesItsOwnUnit := by
  intro cfg upper codes last rest
  have noMerge (h : last.getLsbD 7 = true) : canMerge (codes ++ [last]) = false := by
    rw [canMerge_append, h, Bool.not_true]
  refine ⟨resolveFrom_dot_merge, fun h hroom => ?ownUnit, fun h hfull => ?full,
    resolveFrom_dot_ownUnit (codes := []) rfl cfg.units_pos, fun ch => resolveFrom_char,
    fun ch => resolveFrom_char_full⟩
  case ownUnit =>
    have hown := resolveFrom_dot_ownUnit (upper := upper) (rest := rest) (noMerge h) (by simpa using hroom)
    rwa [List.append_assoc] at hown
  case full => exact resolveFrom_dot_full (noMerge h) (by simpa using hfull)

/-- Settles O47, running the loop: the code of "1" takes the dot, and a leading dot has no code to merge into. -/
theorem decimalPointExamples : Obligations.DecimalPointExamples := by
  intro cfg upper one two five hunits hone htwo hfive
  refine ⟨?oneDotTwo, lookupFn_bit7 htwo, ?dotFive⟩
  case oneDotTwo =>
    calc resolveFrom cfg upper [] [0x31, dot, 0x32]
      _ = resolveFrom cfg upper [one] [dot, 0x32] := resolveFrom_found (codes := []) (by decide) hone cfg.units_pos
      _ = resolveFrom cfg upper [one ||| dpBit] [0x32] := resolveFrom_dot_merge (codes := []) (lookupFn_bit7 hone)
      _ = [one ||| dpBit, two] := resolveFrom_found (by decide) htwo hunits
  case dotFive =>
    calc resolveFrom cfg upper [] [dot, 0x35]
      _ = resolveFrom cfg upper [dpBit] [0x35] := resolveFrom_dot_ownUnit (codes := []) rfl cfg.units_pos
      _ = [dpBit, five] := resolveFrom_found (by decide) hfive hunits

end Sys2Proof.Machine

/-! SUPPORT. What the statements of 43_frame_composer rest on: the state a render that takes effect leaves, the colour
every LED of the chain reads as in it, and the state the same render leaves when it is done again. -/

namespace Sys2Proof.Machine

variable {cfg : Config} {i : Instr} {s t : State} {text : Text} {onColor : OnColor} {codes : List SegCode}
  {size num den : Nat}

/-! ### The painted framebuffer (R180, R181) -/

theorem get_eq_blank_of_wf {m : Memory} {j : Nat} (h : Memory.wf size m) (hj : size ≤ j) :
    m.get j = Memory.blank := by
  by_contra hcolor
  obtain ⟨hlt, -⟩ := h.2 _ (mem_of_get hcolor)
  exact absurd hlt hj.not_gt

/-- Every LED of the chain, whether its unit has a code or not: a unit without one is painted as with the blank code. -/
theorem get_paintedFb {u : Nat} (hu : u < s.cfg.units) {k : Fin 8} {p : Led} (hp : p ∈ s.cfg.segMap.get k) :
    (paintedFb onColor codes s).get (ledIndex u p) =
      if (codes.getD u 0).getLsbD k.val then onColor u p else black := by
  obtain hcode | hnone := Nat.lt_or_ge u codes.length
  · rw [get_paintedFb_lit hu hcode k p hp, List.getD_eq_getElem _ _ hcode]
  · rw [get_paintedFb_dark hu hnone p, List.getD_eq_default _ _ hnone]
    simp

theorem exists_ledIndex_of_lt {j : Nat} (hj : j < ledCount cfg) :
    ∃ u < cfg.units, ∃ p : Led, j = ledIndex u p := by
  simp only [ledCount, ledsPerUnit] at hj
  exact ⟨j / 15, by omega, ⟨j % 15, Nat.mod_lt _ (by decide)⟩, (Nat.div_add_mod j 15).symm⟩

/-- What FB held before a render cannot be told from what it holds after: every LED is painted. -/
theorem paintedFb_eq_of_wf (hcfg : t.cfg = s.cfg) (hs : Memory.wf (ledCount s.cfg) s.fb)
    (ht : Memory.wf (ledCount s.cfg) t.fb) : paintedFb onColor codes t = paintedFb onColor codes s := by
  have hwf := paintedFb_wf (onColor := onColor) (codes := codes) (hcfg.symm ▸ ht)
  rw [hcfg] at hwf
  refine memory_ext hwf (paintedFb_wf hs) fun j => ?_
  obtain hin | hout := Nat.lt_or_ge j (ledCount s.cfg)
  · obtain ⟨u, hu, p, rfl⟩ := exists_ledIndex_of_lt hin
    obtain ⟨k, hp⟩ := s.cfg.seg_cover p
    rw [get_paintedFb hu hp, get_paintedFb (hcfg.symm ▸ hu) (hcfg.symm ▸ hp)]
  · rw [get_eq_blank_of_wf hwf hout, get_eq_blank_of_wf (paintedFb_wf hs) hout]

/-! ### The state a render leaves (R180, R184) -/

/-- The frame a render emits: the painted framebuffer, scaled. -/
def renderedFrame (text : Text) (onColor : OnColor) (s : State) : LedFrame :=
  (List.range (ledCount s.cfg)).map fun j =>
    scaleColor ((paintedFb onColor (resolveCodes text s) s).get j) s.brightness

/-- The state a render leaves when READY is 1. -/
def renderedState (text : Text) (onColor : OnColor) (s : State) : State :=
  emit (renderedFrame text onColor s)
    { s with cache := (resolveState text s).cache, fb := paintedFb onColor (resolveCodes text s) s }

theorem toOutcome_renderCommon_ready (h : s.ready = true) :
    toOutcome (renderCommon text onColor s) = .next (renderedState text onColor s) := by
  rw [renderCommon_ready onColor h, toOutcome_ok]
  rfl

/-- A render that takes effect, the same one in every ready state of a configuration. -/
theorem exec_render_ready (cfg : Config) (h : isRender i = true) :
    ∃ (text : Text) (onColor : OnColor), ∀ s : State, s.cfg = cfg → s.ready = true →
      exec i s = .next (renderedState text onColor s) := by
  obtain ⟨text, onColor, hexec⟩ := exec_render cfg h
  exact ⟨text, onColor, fun s hcfg hready => (hexec s hcfg).trans (toOutcome_renderCommon_ready hready)⟩

theorem renderedState_emitted :
    (renderedState text onColor s).emitted = s.emitted ++ [renderedFrame text onColor s] := rfl

theorem renderedState_fb : (renderedState text onColor s).fb = paintedFb onColor (resolveCodes text s) s := rfl

theorem renderedState_cache : (renderedState text onColor s).cache = (resolveState text s).cache := rfl

theorem renderedFrame_length : (renderedFrame text onColor s).length = 15 * s.cfg.units := by
  rw [renderedFrame, List.length_map, List.length_range]
  rfl

theorem renderEffect_renderedState (text : Text) (onColor : OnColor) (s : State) :
    RenderEffect text onColor s (renderedState text onColor s) where
  rest := rfl
  painted _ hu _ _ hp := get_paintedFb hu hp
  others _ hj := get_paintedFb_outside hj
  emitted := rfl

/-- A render command whose meaning is the common procedure has that procedure's effect. -/
theorem exists_renderEffect (hexec : exec i s = toOutcome (renderCommon text onColor s)) (h : s.ready = true) :
    ∃ t, exec i s = .next t ∧ RenderEffect text onColor s t :=
  ⟨_, hexec.trans (toOutcome_renderCommon_ready h), renderEffect_renderedState text onColor s⟩

theorem exec_renderClock_of_inRange {hours minutes seconds : Byte} {colorH colorM : Color}
    (hh : hours.toNat ≤ 99) (hm : minutes.toNat ≤ 99) :
    exec (.renderClock hours minutes seconds colorH colorM) s =
      toOutcome (renderCommon (clockText s.cfg hours minutes) (onClock s.cfg seconds colorH colorM) s) := by
  have hin : clockOutOfRange hours minutes = false := by
    rw [Bool.eq_false_iff, Ne, clockOutOfRange_iff]
    omega
  simp [exec, execRenderClock, hin]

/-! ### The same render again (R198) -/

theorem cacheHit_renderedState : cacheHit text (renderedState text onColor s) = true := by
  have hit := cacheHit_iff.1 (cacheHit_resolveState text s)
  rw [resolveState_forceUpper] at hit
  exact cacheHit_iff.2 hit

/-- The second render finds CACHE as the first left it. -/
theorem resolveState_renderedState : resolveState text (renderedState text onColor s) = renderedState text onColor s :=
  resolveState_of_cacheHit cacheHit_renderedState

theorem renderedState_cacheCoherent (h : s.cacheCoherent) : (renderedState text onColor s).cacheCoherent :=
  cacheCoherent_of_eq (resolveState_cfg text s).symm rfl (resolveState_cacheCoherent h)

theorem resolveCodes_renderedState (h : s.cacheCoherent) :
    resolveCodes text (renderedState text onColor s) = resolveCodes text s :=
  (resolveCodes_of_cacheCoherent (renderedState_cacheCoherent h)).trans (resolveCodes_of_cacheCoherent h).symm

theorem paintedFb_renderedState (h : s.Inv) :
    paintedFb onColor (resolveCodes text (renderedState text onColor s)) (renderedState text onColor s) =
      (renderedState text onColor s).fb := by
  rw [resolveCodes_renderedState h.cache_coherent]
  exact paintedFb_eq_of_wf rfl h.fb_wf (paintedFb_wf h.fb_wf)

theorem renderedFrame_renderedState (h : s.Inv) :
    renderedFrame text onColor (renderedState text onColor s) = renderedFrame text onColor s := by
  rw [renderedFrame, paintedFb_renderedState h]
  rfl

theorem renderedState_renderedState (h : s.Inv) :
    renderedState text onColor (renderedState text onColor s) =
      emit (renderedFrame text onColor s) (renderedState text onColor s) := by
  rw [renderedState, renderedFrame_renderedState h, resolveState_renderedState, paintedFb_renderedState h]

/-! ### The brightness of a render (R184, R222) -/

theorem scaleColor_full (c : Color) : scaleColor c 255 = c := by
  rw [scaleColor, scaleCh_full, scaleCh_full, scaleCh_full, pack_channels]

theorem scaleColor_off (c : Color) : scaleColor c 0 = 0 := by
  rw [scaleColor, scaleCh_off, scaleCh_off, scaleCh_off]
  rfl

theorem renderedFrame_full (h : s.brightness = 255) :
    renderedFrame text onColor s =
      (List.range (15 * s.cfg.units)).map fun j => (renderedState text onColor s).fb.get j := by
  simp only [renderedFrame, h, scaleColor_full]
  rfl

theorem renderedFrame_off (h : s.brightness = 0) :
    renderedFrame text onColor s = List.replicate (15 * s.cfg.units) 0 := by
  simp only [renderedFrame, h, scaleColor_off, List.map_const', List.length_range]
  rfl

theorem paintedFb_of_brightness (br : Byte) :
    paintedFb onColor codes { s with brightness := br } = paintedFb onColor codes s := rfl

theorem resolveCodes_of_brightness (br : Byte) :
    resolveCodes text { s with brightness := br } = resolveCodes text s := rfl

theorem resolveState_cache_of_brightness (br : Byte) :
    (resolveState text { s with brightness := br }).cache = (resolveState text s).cache := by
  rw [resolveState_cache, resolveState_cache]
  rfl

theorem renderedState_fb_of_brightness (br : Byte) :
    (renderedState text onColor { s with brightness := br }).fb = (renderedState text onColor s).fb := by
  rw [renderedState_fb, renderedState_fb, paintedFb_of_brightness, resolveCodes_of_brightness]

/-! ### The end of a horizontal gradient (R189) -/

/-- Less than all of a rise, truncated, is less than the rise. -/
theorem tdiv_part_lt {d : Int} (hd : 0 < d) (hnum : num < den) : Int.tdiv (d * num) den < d := by
  have hproduct : d * num < d * den := Int.mul_lt_mul_of_pos_left (by exact_mod_cast hnum) hd
  rw [Int.tdiv_eq_ediv_of_nonneg (Int.mul_nonneg hd.le num.cast_nonneg)]
  exact Int.ediv_lt_of_lt_mul (by omega) hproduct

/-- The interpolation does not reach its end before the fraction is 1; a fall is a rise of the opposite sign. -/
theorem interpolation_ne_end {a b : Int} (hab : a ≠ b) (hnum : num < den) :
    a + Int.tdiv ((b - a) * num) den ≠ b := by
  obtain hrise | hfall := Int.lt_or_gt_of_ne hab
  · have hpart := tdiv_part_lt (d := b - a) (by omega) hnum
    omega
  · have hpart := tdiv_part_lt (d := a - b) (by omega) hnum
    have hsign : Int.tdiv ((b - a) * num) den = -Int.tdiv ((a - b) * num) den := by
      rw [← Int.neg_tdiv, ← Int.neg_mul, Int.neg_sub]
    omega

theorem blendCh_ne_end {a b : Byte} (hab : a ≠ b) (hnum : num < den) : blendCh a b num den ≠ b := by
  have hne : (a.toNat : Int) ≠ b.toNat := fun h => hab (BitVec.eq_of_toNat_eq (by exact_mod_cast h))
  intro hend
  have hvalue := toNat_blendCh a b (Nat.zero_lt_of_lt hnum) hnum.le
  rw [hend] at hvalue
  exact interpolation_ne_end hne hnum hvalue.symm

/-! ### The text "TOOLONG" (R197) -/

theorem glyphCode_of_lookupFn_fold {ch : Byte} {upper : Bool} {code : SegCode}
    (h : lookupFn cfg (fold ch) upper = some code) : glyphCode cfg upper ch = code := by
  rw [glyphCode, ← lookupFn_fold, h, Option.getD_some]

theorem glyphCode_of_not_mem {ch : Byte} (h : fold ch ∉ alphabet) (upper : Bool) : glyphCode cfg upper ch = 0 := by
  rw [glyphCode, lookupFn_of_not_mem h, Option.getD_none]

/-- The first letter is not in the alphabet, and the last three have no unit. -/
theorem resolvePure_toolong {upper : Bool} {o l : SegCode} (hunits : cfg.units = 4)
    (ho : lookupFn cfg 0x6F upper = some o) (hl : lookupFn cfg 0x6C upper = some l) :
    resolvePure cfg [0x54, 0x4F, 0x4F, 0x4C, 0x4F, 0x4E, 0x47] upper = [0x00, o, o, l] := by
  have codeT : glyphCode cfg upper 0x54 = 0x00 := glyphCode_of_not_mem (by decide) upper
  have codeO : glyphCode cfg upper 0x4F = o := glyphCode_of_lookupFn_fold ho
  have codeL : glyphCode cfg upper 0x4C = l := glyphCode_of_lookupFn_fold hl
  rw [resolvePure, resolveFrom_of_dot_notMem (by decide) (Nat.zero_le _), hunits]
  change [glyphCode cfg upper 0x54, glyphCode cfg upper 0x4F, glyphCode cfg upper 0x4F, glyphCode cfg upper 0x4C] = _
  rw [codeT, codeO, codeL]

end Sys2Proof.Machine

namespace Sys2Proof.Machine

/-! ### The statements of 43_frame_composer -/

/-- Settles O21, by whether the command renders and whether READY is 1. -/
theorem onlyRendersEmitAndWriteTheFramebuffer : Obligations.OnlyRendersEmitAndWriteTheFramebuffer := by
  intro i s t he
  by_cases heffect : isRender i = true ∧ s.ready = true
  · obtain ⟨hrender, hready⟩ := heffect
    obtain ⟨text, onColor, hexec⟩ := exec_render_ready s.cfg hrender
    rw [hexec s rfl hready] at he
    obtain rfl := Host.Outcome.next.inj he
    exact ⟨fun _ => ⟨_, renderedState_emitted, renderedFrame_length⟩, fun h => absurd ⟨hrender, hready⟩ h,
      (renderEffect_renderedState text onColor s).others⟩
  · have hkept : t.emitted = s.emitted ∧ t.fb = s.fb := by
      cases hrender : isRender i with
      | false =>
        obtain ⟨-, hfb, hemitted, -⟩ := exec_nonrender hrender he
        exact ⟨hemitted, hfb⟩
      | true =>
        have hready : s.ready = false := Bool.eq_false_iff.2 fun h => heffect ⟨hrender, h⟩
        rw [exec_render_unready hrender hready] at he
        obtain rfl := Host.Outcome.next.inj he
        exact ⟨rfl, rfl⟩
    exact ⟨fun h => absurd h heffect, fun _ => hkept, fun k _ => by rw [hkept.2]⟩

/-- Settles O51: the common procedure with one colour. -/
theorem renderSolidPaintsAndEmits : Obligations.RenderSolidPaintsAndEmits :=
  fun _ color _ => exists_renderEffect (onColor := onSolid color) rfl

/-- Settles O52: the common procedure with the vertical gradient. -/
theorem renderVGradPaintsAndEmits : Obligations.RenderVGradPaintsAndEmits :=
  fun _ a b s => exists_renderEffect (onColor := onVGrad s.cfg a b) rfl

/-- Settles O53: the common procedure with the horizontal gradient. -/
theorem renderHGradPaintsAndEmits : Obligations.RenderHGradPaintsAndEmits :=
  fun _ a b s => exists_renderEffect (onColor := onHGrad s.cfg a b) rfl

/-- Settles O54: the common procedure with the colour wheel. -/
theorem renderCyclePaintsAndEmits : Obligations.RenderCyclePaintsAndEmits :=
  fun _ offset _ => exists_renderEffect (onColor := onCycle offset) rfl

/-- Settles O55: in its range the clock is the common procedure with the clock text. -/
theorem renderClockPaintsAndEmits : Obligations.RenderClockPaintsAndEmits :=
  ⟨fun _ => ⟨red_pack _ _ _, green_pack _ _ _, blue_pack _ _ _⟩,
    fun _ _ _ _ _ _ hready hh hm => exists_renderEffect (exec_renderClock_of_inRange hh hm) hready⟩

/-- Settles O56: a clock out of its range is no render. -/
theorem clockOutOfRangeIsRefused : Obligations.ClockOutOfRangeIsRefused := by
  intro h m sec ch cm s hout
  refine exec_renderClock_refused (decide_eq_false ?_)
  omega

/-- Settles O57: an LED's column stands before the chain's end, so its fraction is below 1. -/
theorem horizontalGradientNeverReachesItsEnd : Obligations.HorizontalGradientNeverReachesItsEnd := by
  intro cfg a b u p hu
  have hcolumn := (cfg.pixelXY.get p).1.isLt
  exact ⟨fun hab => blendCh_ne_end hab (by omega), blendCh_zero a b _⟩

/-- Settles O58: the second render paints the framebuffer it finds (`renderedState_renderedState`). -/
theorem renderingTwiceIsIdempotent : Obligations.RenderingTwiceIsIdempotent := by
  intro i s t hrender hready hinv he
  obtain ⟨text, onColor, hexec⟩ := exec_render_ready s.cfg hrender
  rw [hexec s rfl hready] at he
  obtain rfl := Host.Outcome.next.inj he
  exact ⟨renderedFrame text onColor s, _, renderedState_emitted, hexec _ rfl hready,
    renderedState_renderedState hinv⟩

/-- Settles O59: the text resolves to four codes (`resolvePure_toolong`), and each unit is painted by its own. -/
theorem tooLongTextIsClamped : Obligations.TooLongTextIsClamped := by
  intro color s t o l hready hinv hunits ho hl he
  obtain rfl : renderedState _ (onSolid color) s = t :=
    Host.Outcome.next.inj ((toOutcome_renderCommon_ready hready).symm.trans he)
  have hpure := resolvePure_toolong hunits ho hl
  have hcodes := (resolveCodes_of_cacheCoherent hinv.cache_coherent).trans hpure
  obtain ⟨-, hpainted, hothers, -⟩ := renderEffect_renderedState _ (onSolid color) s
  rw [hcodes, hunits] at hpainted
  refine ⟨?codes, fun p => ?unitZero, fun k p hp => ?unitOne, fun j hj => ?outside⟩
  case codes => rw [renderedState_cache, resolveState_of_cacheCoherent hinv.cache_coherent, hpure]
  case unitZero =>
    obtain ⟨k, hp⟩ := s.cfg.seg_cover p
    simpa using hpainted 0 (by decide) k p hp
  case unitOne => simpa [onSolid] using hpainted 1 (by decide) k p hp
  case outside =>
    have hpast : ledCount s.cfg ≤ j := by simpa [ledCount, ledsPerUnit, hunits] using hj
    rw [hothers j hpast, get_eq_blank_of_wf hinv.fb_wf hpast]
    rfl

/-- Settles O60: BRIGHTNESS is read by the emitted frame alone. -/
theorem brightnessScalesTheFrameOnly : Obligations.BrightnessScalesTheFrameOnly := by
  intro i s t br hrender hready he
  obtain ⟨text, onColor, hexec⟩ := exec_render_ready s.cfg hrender
  rw [hexec s rfl hready] at he
  obtain rfl := Host.Outcome.next.inj he
  refine ⟨fun hfull => ?_, fun hoff => ?_, _, hexec { s with brightness := br } rfl hready,
    renderedState_fb_of_brightness br, resolveState_cache_of_brightness br⟩
  · rw [renderedState_emitted, renderedFrame_full hfull]
  · rw [renderedState_emitted, renderedFrame_off hoff]

end Sys2Proof.Machine

/-! SUPPORT. What the statements of 44_control rest on: resolving reads the selected table only through the codes of
the text's bytes, and the bytes of a clock text are below the letters. -/

namespace Sys2Proof.Machine

variable {cfg : Config} {ch v hours minutes : Byte} {text : Text}

/-- The characters whose glyphs the two tables may give apart: b, d, n, o and r (R103, `alphabet_variantGlyphs`). -/
abbrev variantLetters : List Byte := [0x62, 0x64, 0x6E, 0x6F, 0x72]

/-! ### Texts that resolve alike under both tables (R103, R161) -/

/-- R161's loop reads the selected table only through the codes of the text's bytes; a dot's code is not read. -/
theorem resolveFrom_congr {upper upper' : Bool} (codes : List SegCode)
    (h : ∀ ch ∈ text, glyphCode cfg upper ch = glyphCode cfg upper' ch) :
    resolveFrom cfg upper codes text = resolveFrom cfg upper' codes text := by
  induction text generalizing codes with
  | nil => rfl
  | cons ch rest ih =>
    obtain ⟨hch, hrest⟩ := List.forall_mem_cons.1 h
    simp only [resolveFrom, ih _ hrest, hch]

theorem glyphCode_same_of_not_variant (h : fold ch ∉ variantLetters) (cfg : Config) :
    glyphCode cfg false ch = glyphCode cfg true ch := by
  rw [glyphCode, glyphCode, lookupFn_same_of_not_variant h]

theorem resolvePure_same_of_not_variant (cfg : Config)
    (h : ∀ ch ∈ text, fold ch ∉ variantLetters) :
    resolvePure cfg text false = resolvePure cfg text true :=
  resolveFrom_congr [] fun ch hch => glyphCode_same_of_not_variant (h ch hch) cfg

/-! ### The bytes of a clock text (R194) -/

theorem digit_of_mem_twoDigits (hv : v.toNat ≤ 99) (h : ch ∈ twoDigits v) : 0x30 ≤ ch ∧ ch ≤ 0x39 := by
  have digit {d : Nat} (hd : d ≤ 9) :
      (0x30 : Byte) ≤ BitVec.ofNat 8 (0x30 + d) ∧ BitVec.ofNat 8 (0x30 + d) ≤ 0x39 := by
    constructor <;> bv_omega
  rw [twoDigits, List.mem_pair] at h
  obtain rfl | rfl := h
  · exact digit (by omega)
  · exact digit (by omega)

theorem space_or_digit_of_mem_clockText (hh : hours.toNat ≤ 99) (hm : minutes.toNat ≤ 99)
    (h : ch ∈ clockText cfg hours minutes) : ch = 0x20 ∨ 0x30 ≤ ch ∧ ch ≤ 0x39 := by
  rw [clockText, List.mem_append, List.mem_append] at h
  obtain hpad | hhours | hminutes := h
  · exact .inl (List.eq_of_mem_replicate hpad)
  · exact .inr (digit_of_mem_twoDigits hh hhours)
  · exact .inr (digit_of_mem_twoDigits hm hminutes)

/-- A byte below the letters is its own fold. -/
theorem fold_not_variant_of_lt (h : ch < 0x41) : fold ch ∉ variantLetters := by
  have letters_above : ∀ c ∈ variantLetters, ¬c < 0x41 := by decide
  rw [fold_of_not_upper (by bv_omega)]
  exact fun hmem => letters_above ch hmem h

theorem fold_not_variant_of_mem_clockText (hh : hours.toNat ≤ 99) (hm : minutes.toNat ≤ 99)
    (h : ch ∈ clockText cfg hours minutes) : fold ch ∉ variantLetters := by
  obtain rfl | ⟨-, hle⟩ := space_or_digit_of_mem_clockText hh hm h
  · exact fold_not_variant_of_lt (by decide)
  · exact fold_not_variant_of_lt (by bv_omega)

end Sys2Proof.Machine

namespace Sys2Proof.Machine

/-! ### The statements of 44_control -/

/-- Settles O50: the two tables give every byte of such a text one code, and a clock text holds spaces and digits. -/
theorem onlyVariantLettersDependOnForceUpper : Obligations.OnlyVariantLettersDependOnForceUpper :=
  fun cfg => ⟨fun _ => resolvePure_same_of_not_variant cfg, fun _ _ hh hm =>
    resolvePure_same_of_not_variant cfg fun _ => fold_not_variant_of_mem_clockText hh hm⟩

/-- Settles O23: the frame is BEGIN's encoding, and `execBegin` writes the two registers. -/
theorem beginWritesBrightnessAndReady : Obligations.BeginWritesBrightnessAndReady :=
  fun b _ => ⟨decode_encode (i := .begin b) rfl, rfl⟩

/-- Settles O24: the frame is SET_BRIGHTNESS's encoding, and `execSetBrightness` writes the one register. -/
theorem setBrightnessWritesBrightness : Obligations.SetBrightnessWritesBrightness :=
  fun b _ => ⟨decode_encode (i := .setBrightness b) rfl, rfl⟩

/-- Settles O25: the frame is SET_FORCE_UPPERCASE's encoding, and `execSetForceUppercase` leaves CACHE alone. -/
theorem setForceUppercaseWritesForceUpper : Obligations.SetForceUppercaseWritesForceUpper :=
  fun u _ => ⟨decode_encode (i := .setForceUppercase u) rfl, rfl⟩

/-- Settles O26: IS_READY only responds, whatever READY is. -/
theorem isReadyRespondsReady : Obligations.IsReadyRespondsReady :=
  ⟨decode_encode (i := .isReady) rfl, fun _ => rfl⟩

end Sys2Proof.Machine

/-! SUPPORT. What the statement of 60_exceptions rests on: every command answers a next state, a render because all of
its framebuffer indices lie inside 0 .. 15N-1 (R50, `renderWrites_lt`), so a step answers one too or stops on overlap. -/

namespace Sys2Proof.Machine

variable {i : Instr}

/-! ### Every command answers a next state (R240) -/

/-- A render writes and reads inside the framebuffer alone, so it completes whether READY is 1 or 0 (R50, R182). -/
theorem exec_render_completes (h : isRender i = true) (s : State) : ∃ t, exec i s = .next t := by
  obtain hready | hunready := Bool.eq_false_or_eq_true s.ready
  · obtain ⟨text, onColor, hexec⟩ := exec_render_ready s.cfg h
    exact ⟨_, hexec s rfl hready⟩
  · exact ⟨s, exec_render_unready h hunready⟩

/-- A command that is no render touches no framebuffer index; a clock out of its range is refused at the port (R194). -/
theorem exec_nonrender_completes (h : isRender i = false) (s : State) : ∃ t, exec i s = .next t := by
  cases i with
  | renderSolid | renderVGrad | renderHGrad | renderCycle => simp [isRender] at h
  | renderClock => exact ⟨_, exec_renderClock_refused h⟩
  | glyphAt index =>
    cases hindex : alphabet[index.toNat]? with
    | none => exact ⟨_, exec_glyphAt_of_none hindex⟩
    | some ch => exact ⟨_, exec_glyphAt_of_some hindex⟩
  | _ => exact ⟨_, rfl⟩

theorem exec_completes (i : Instr) (s : State) : ∃ t, exec i s = .next t := by
  cases h : isRender i with
  | true => exact exec_render_completes h s
  | false => exact exec_nonrender_completes h s

/-- A step has no outcome but a next state and the stop on an overlapping command (R263). -/
theorem step_completes_or_reentrant (s : State) : (∃ t, step s = .next t) ∨ step s = .refused .reentrant := by
  cases hp : s.pending with
  | nil => exact .inl ⟨s, step_idle hp⟩
  | cons c rest =>
    cases hc : c.overlapping with
    | true => exact .inr (step_overlapping hp hc)
    | false =>
      cases hd : decode c.frame with
      | error reason => exact .inl ⟨_, step_refused hp hc hd⟩
      | ok i =>
        rw [step_decoded hp hc hd]
        exact .inl (exec_completes i (takeCommand rest s))

end Sys2Proof.Machine

namespace Sys2Proof.Machine

/-! ### The statement of 60_exceptions -/

/-- Settles O6: a command answers a next state, a step that or the stop on overlap, and neither is a fault. -/
theorem nothingEverFaults : Obligations.NothingEverFaults := by
  refine ⟨fun i s f hfault => ?command, fun s f hfault => ?step⟩
  case command =>
    obtain ⟨t, hnext⟩ := exec_completes i s
    cases hnext.symm.trans hfault
  case step =>
    obtain ⟨t, hnext⟩ | hstop := step_completes_or_reentrant s
    · cases hnext.symm.trans hfault
    · cases hstop.symm.trans hfault

end Sys2Proof.Machine

/-! SUPPORT. What the statements of 70_reset_and_hazards rest on besides `exec_completes` and the cases of a step: a
newly created block is in a legal state, on which the legality of every reachable state rests (`exec_inv`). -/

namespace Sys2Proof.Machine

variable {s : State}

/-! ### The state creation leaves (R260) -/

/-- An empty cache is coherent whatever its other fields hold: they are never read (R27). -/
theorem cacheCoherent_of_invalid (h : s.cache.valid = false) : s.cacheCoherent :=
  fun hvalid => absurd hvalid (by simp [h])

/-- A block that has emitted nothing has no frame of a wrong length (R33). -/
theorem frames_full_of_emitted_nil (h : s.emitted = []) : ∀ frame ∈ s.emitted, frame.length = ledCount s.cfg := by
  rw [h]
  exact List.forall_mem_nil _

/-- The base case of the legal states, whose step is `exec_inv`. -/
theorem create_inv (cfg : Config) : (State.create cfg).Inv where
  fb_wf := nil_wf
  cache_coherent := cacheCoherent_of_invalid rfl
  frames_full := frames_full_of_emitted_nil (create_emitted cfg)

end Sys2Proof.Machine

namespace Sys2Proof.Machine

/-! ### The statements of 70_reset_and_hazards -/

/-- Settles O5: a render's framebuffer indices are all in range, and no other command has a way to stop. -/
theorem everyCommandCompletes : Obligations.EveryCommandCompletes :=
  exec_completes

/-- Settles O4: the overlap is looked at before the frame, and an empty list of commands leaves the state. -/
theorem overlapStopsTheRunAndIdlenessKeepsIt : Obligations.OverlapStopsTheRunAndIdlenessKeepsIt :=
  ⟨fun _ _ _ hpending => step_overlapping hpending rfl, fun _ => step_idle⟩

/-- Settles O14: the values are those `create` writes; its framebuffer lists no entry, so each one reads as black. -/
theorem creationLeavesTheResetState : Obligations.CreationLeavesTheResetState :=
  fun _ => ⟨rfl, rfl, rfl, fun _ => rfl, rfl, rfl, rfl, rfl⟩

/-- Settles O15: `State.reset` is the installed block, created. -/
theorem createdStatesAreLegal : Obligations.CreatedStatesAreLegal :=
  ⟨create_inv, create_inv Config.installed⟩

end Sys2Proof.Machine
